-- ==== Sys2Proof/Word.lean ====
section
/-! DEFINITION. The two word types of the rust6502 CORE: the 8-bit byte of registers and memory, and the
16-bit address (spec 00_scope R8, R9). Every value is unsigned; nothing is sign-extended. -/

namespace Sys2Proof

/-- An 8-bit register or memory byte (00_scope R8, 10_state R38). -/
abbrev Byte := BitVec 8

/-- A 16-bit address or program counter (00_scope R8, 20_memory R50). -/
abbrev Addr := BitVec 16

end Sys2Proof
end

