-- ==== Sys2Proof/Machine/Bytes.lean ====
section
/-! DEFINITION. Bytes and 16-bit addresses: `h:l`, its two halves and zero extension (00_scope R9, 20_memory R54). -/

namespace Sys2Proof

/-- `hi:lo`, the 16-bit value `hi * 256 + lo` (00_scope R9). -/
def hiLo (hi lo : Byte) : Addr := hi ++ lo

/-- `w[7:0]`, the byte stored at the lower address (20_memory R54). -/
def lowByte (w : Addr) : Byte := w.setWidth 8

/-- `w[15:8]`, the byte stored at the higher address (20_memory R54). -/
def highByte (w : Addr) : Byte := (w >>> 8).setWidth 8

/-- `zext16(b)`: the byte as an address in the zero page (00_scope R9). -/
def zext16 (b : Byte) : Addr := b.setWidth 16

end Sys2Proof
end

