-- ==== Sys2Proof/Config.lean ====
section
/-! DEFINITION. What an implementation fixes (the spec's parameters, 00_scope R8), and the free values of the
model: constants with no body, so that no proof can know what they are. -/

namespace Sys2Proof

/-- Where JSR writes its return address: parameter `JSR_RETURN_DISCIPLINE` (92_eei_decisions D2). -/
inductive JsrDiscipline where
  | stack             -- 44_jsr R190
  | targetOverwrite   -- 44_jsr R191
deriving DecidableEq, Repr

/-- The spec's decision for JSR: the stack page (44_jsr R190, 92_eei_decisions D2; log entry 3, UNVERIFIED, unsafe for
an implementation of the other discipline). -/
def Config.jsrReturnDiscipline : JsrDiscipline := .stack

/-- Parameter `ZP_POINTER_WRAP`: the high byte of a pointer at 0x00FF is read from 0x0000
(41_addressing_modes R111, 92_eei_decisions D6; log entry 4, UNVERIFIED, unsafe for an implementation without the
wrap). -/
def Config.zpPointerWrap : Bool := true

/-! The state an AddressOverflow leaves is unspecified (60_exceptions R202, 93_implementation_defined): each
register holds a free value, numbered by `State.draws` (log entry 1, DESIGN CHOICE, safe). -/

/-- PC after the `n`-th AddressOverflow. -/
opaque Config.pcAfterOverflow : Nat → Addr
/-- SP after the `n`-th AddressOverflow. -/
opaque Config.spAfterOverflow : Nat → Byte
/-- A after the `n`-th AddressOverflow. -/
opaque Config.aAfterOverflow : Nat → Byte
/-- X after the `n`-th AddressOverflow. -/
opaque Config.xAfterOverflow : Nat → Byte
/-- Y after the `n`-th AddressOverflow. -/
opaque Config.yAfterOverflow : Nat → Byte
/-- P, packed as 10_state R32 packs it, after the `n`-th AddressOverflow. -/
opaque Config.pAfterOverflow : Nat → Byte
/-- The remaining-cycle counter after the `n`-th AddressOverflow. -/
opaque Config.remainingAfterOverflow : Nat → Int

end Sys2Proof
end

