-- ==== Sys2Proof/Machine/State.lean ====
section
/-! DEFINITION. The state of the CORE: register file, memory and engine control (10_state R20), the reasons a step
stops, and the state right after reset (10_state R36). Plain data only. -/

namespace Sys2Proof.Machine

/-- `P`, the seven status flags (10_state R28). -/
structure Status where
  c : Bool := false   -- carry
  z : Bool := false   -- zero
  i : Bool := false   -- interrupt-disable
  d : Bool := false   -- decimal
  b : Bool := false   -- break
  v : Bool := false   -- overflow
  n : Bool := false   -- negative
deriving DecidableEq, Repr

/-- The engine's mode (10_state R35). `executing` is inside an instruction and never observable (40 R96). -/
inductive Mode where
  | idle
  | executing
  | done
  | faulted
deriving DecidableEq, Repr

/-- The modes in which an indexed sum can overflow (60_exceptions R203). -/
inductive IndexedMode where
  | absoluteX
  | absoluteY
  | indirectY
deriving DecidableEq, Repr

/-- The fault record `EngineFault` (60_exceptions R203). -/
inductive FaultRecord where
  /-- Code 1: the opcode and the address it was fetched from. -/
  | unsupportedOpcode (opcode : Byte) (addr : Addr)
  /-- Code 2: the mode, the base, the index and the address of the opcode. -/
  | addressOverflow (mode : IndexedMode) (base : Addr) (index : Byte) (addr : Addr)
deriving DecidableEq, Repr

/-- Memory `M` (10_state R34): the cells that do not hold what an unlisted address reads as, addresses strictly
rising (`Memory.wf`). -/
abbrev Memory := List Host.Cell

/-- The state of the machine (10_state R20). `draws` is the model's own: it numbers the free values drawn so far
(log entry 1). -/
structure State where
  pc : Addr               -- 10_state R21
  sp : Byte               -- 10_state R22
  a : Byte                -- 10_state R23
  x : Byte                -- 10_state R24
  y : Byte                -- 10_state R25
  p : Status              -- 10_state R28
  mem : Memory            -- 10_state R34
  mode : Mode             -- 10_state R35
  inCall : Bool           -- an `execute` call is in progress: 10_state R36 (mode), 70_reset R227
  requested : Int         -- 10_state R35, unbounded by 92_eei_decisions D10
  remaining : Int         -- 10_state R35, R210
  fault : Option FaultRecord   -- 10_state R35
  draws : Nat
deriving DecidableEq, Repr

/-- Why the machine stops. -/
inductive Fault where
  /-- `execute` has returned `Err(record)` (60_exceptions R204). Raised by `step` alone, on a state in mode Faulted;
  the state the fault left is that state. Safe: the hardware stops there too. -/
  | engineFault (record : FaultRecord)
deriving DecidableEq, Repr

/-- What the model gives no meaning to. -/
inductive Refusal where
  /-- An instruction that has no meaning in the model yet; raised by `exec`'s own arms alone. Safe. -/
  | notModelled (mnemonic : String)
  /-- A host action while a call is in progress, which the spec forbids (70_reset R227, 92 D17). Raised by `hostAct`
  alone. Safe: a host that acts then has no run in the model. -/
  | hostDuringCall
  /-- A step from a state that is no instruction boundary and that no run reaches: mode Executing, or mode Faulted
  without a record (log entry 10). Raised by `step` alone. Safe. -/
  | notAtBoundary
deriving DecidableEq, Repr

/-- The machine right after both resets (10_state R36, 70_reset R220): every register and flag zero, PC the address
0xFFFC itself, memory zero-filled, no `execute` call in progress. `requested` and `remaining` have no value before the first call in the spec; the
model's 0 is log entry 2 (DESIGN CHOICE, unsafe), as is `draws` = 0 (log entry 1, DESIGN CHOICE). -/
def State.reset : State where
  pc := 0xFFFC#16
  sp := 0#8
  a := 0#8
  x := 0#8
  y := 0#8
  p := {}
  mem := []
  mode := .idle
  inCall := false
  requested := 0
  remaining := 0
  fault := none
  draws := 0

end Sys2Proof.Machine
end

