-- ==== Sys2Proof/Machine/Flags.lean ====
section
/-! DEFINITION. The status_flag_updater (42_loads R140) and the packed view of the status (10_state R32). -/

namespace Sys2Proof.Machine

/-- The status after `updZN(v)`: Z and N from v, the other five flags as they were (42_loads R140). -/
def Status.updZN (p : Status) (v : Byte) : Status := { p with z := v == 0#8, n := v.getLsbD 7 }

/-- `updZN(v)`; it costs no cycle (42_loads R140). -/
def State.updZN (s : State) (v : Byte) : State := { s with p := s.p.updZN v }

/-- P as one byte, from bit 7 down: N V - B D I Z C, bit 5 reading 0 (10_state R32, the spec's decision D9; log
entry 8). -/
def Status.pack (p : Status) : Byte :=
  BitVec.ofBool p.n ++ BitVec.ofBool p.v ++ 0#1 ++ BitVec.ofBool p.b ++ BitVec.ofBool p.d ++ BitVec.ofBool p.i ++
    BitVec.ofBool p.z ++ BitVec.ofBool p.c

/-- The flags of a packed byte; bit 5 holds no flag (10_state R32). -/
def Status.unpack (w : Byte) : Status where
  c := w.getLsbD 0
  z := w.getLsbD 1
  i := w.getLsbD 2
  d := w.getLsbD 3
  b := w.getLsbD 4
  v := w.getLsbD 6
  n := w.getLsbD 7

end Sys2Proof.Machine
end

