-- ==== Sys2Proof/Syntax.lean ====
section
/-! DEFINITION. The instructions: one constructor per row of spec/opcode_table.json (30_encoding R73), named
after its mnemonic and addressing mode, with the operand the form's bytes carry (30_encoding R71, R72). -/

namespace Sys2Proof

/-- The 32 in-scope forms (00_scope R3, 30_encoding R73).
`v` is an `imm8` value, `z` a `zp8` zero-page or pointer address, `a`, `base` and `target` an `abs16` address. -/
inductive Instr where
  | ldaImmediate (v : Byte)
  | ldaZeroPage (z : Byte)
  | ldaZeroPageX (z : Byte)
  | ldaAbsolute (a : Addr)
  | ldaAbsoluteX (base : Addr)
  | ldaAbsoluteY (base : Addr)
  | ldaIndirectX (z : Byte)
  | ldaIndirectY (z : Byte)
  | ldxImmediate (v : Byte)
  | ldxZeroPage (z : Byte)
  | ldxZeroPageY (z : Byte)
  | ldxAbsolute (a : Addr)
  | ldxAbsoluteY (base : Addr)
  | ldyImmediate (v : Byte)
  | ldyZeroPage (z : Byte)
  | ldyZeroPageX (z : Byte)
  | ldyAbsolute (a : Addr)
  | ldyAbsoluteX (base : Addr)
  | staZeroPage (z : Byte)
  | staZeroPageX (z : Byte)
  | staAbsolute (a : Addr)
  | staAbsoluteX (base : Addr)
  | staAbsoluteY (base : Addr)
  | staIndirectX (z : Byte)
  | staIndirectY (z : Byte)
  | stxZeroPage (z : Byte)
  | stxZeroPageY (z : Byte)
  | stxAbsolute (a : Addr)
  | styZeroPage (z : Byte)
  | styZeroPageX (z : Byte)
  | styAbsolute (a : Addr)
  | jsr (target : Addr)
deriving DecidableEq, Repr

end Sys2Proof
end

