-- ==== Sys2Proof/Machine/Form.lean ====
section
/-! DEFINITION. The decoded form of an instruction, the record (effect, sel, mode, ctx) of 30_encoding R75, and
the operand it carries. The instruction is the syntax; its form says which generic operation runs it. -/

namespace Sys2Proof

/-- What a form does (30_encoding R75). -/
inductive Effect where
  | load
  | store
  | jsr
deriving DecidableEq, Repr

/-- The register selector: it owns no storage, it names a register (10_state R26). -/
inductive Sel where
  | accumulator
  | registerX
  | registerY
deriving DecidableEq, Repr

/-- The nine addressing modes of 41_addressing_modes R115 to R126, and JSR's own target operand, which the
resolver does not see (44_jsr R190). -/
inductive AddrMode where
  | immediate
  | zeroPage
  | zeroPageX
  | zeroPageY
  | absolute
  | absoluteX
  | absoluteY
  | indirectX
  | indirectY
  | absoluteTarget
deriving DecidableEq, Repr

/-- The access context, which decides the page-cross cycle (41_addressing_modes R113, 00_scope R11). -/
inductive Ctx where
  | load
  | store
deriving DecidableEq, Repr

/-- A decoded form (30_encoding R75); JSR has no selector and no context. -/
structure Form where
  effect : Effect
  sel : Option Sel
  mode : AddrMode
  ctx : Option Ctx
deriving DecidableEq, Repr

/-- A load form of 30_encoding R73. -/
def Form.ofLoad (sel : Sel) (mode : AddrMode) : Form := ⟨.load, some sel, mode, some .load⟩

/-- A store form of 30_encoding R73. -/
def Form.ofStore (sel : Sel) (mode : AddrMode) : Form := ⟨.store, some sel, mode, some .store⟩

/-- The form of JSR: its target is not resolved, so it has neither selector nor context (30_encoding R75). -/
def Form.ofJsr : Form := ⟨.jsr, none, .absoluteTarget, none⟩

/-- The row of 30_encoding R73 an instruction belongs to. -/
def Instr.form : Instr → Form
  | .ldaImmediate _ => .ofLoad .accumulator .immediate
  | .ldaZeroPage _ => .ofLoad .accumulator .zeroPage
  | .ldaZeroPageX _ => .ofLoad .accumulator .zeroPageX
  | .ldaAbsolute _ => .ofLoad .accumulator .absolute
  | .ldaAbsoluteX _ => .ofLoad .accumulator .absoluteX
  | .ldaAbsoluteY _ => .ofLoad .accumulator .absoluteY
  | .ldaIndirectX _ => .ofLoad .accumulator .indirectX
  | .ldaIndirectY _ => .ofLoad .accumulator .indirectY
  | .ldxImmediate _ => .ofLoad .registerX .immediate
  | .ldxZeroPage _ => .ofLoad .registerX .zeroPage
  | .ldxZeroPageY _ => .ofLoad .registerX .zeroPageY
  | .ldxAbsolute _ => .ofLoad .registerX .absolute
  | .ldxAbsoluteY _ => .ofLoad .registerX .absoluteY
  | .ldyImmediate _ => .ofLoad .registerY .immediate
  | .ldyZeroPage _ => .ofLoad .registerY .zeroPage
  | .ldyZeroPageX _ => .ofLoad .registerY .zeroPageX
  | .ldyAbsolute _ => .ofLoad .registerY .absolute
  | .ldyAbsoluteX _ => .ofLoad .registerY .absoluteX
  | .staZeroPage _ => .ofStore .accumulator .zeroPage
  | .staZeroPageX _ => .ofStore .accumulator .zeroPageX
  | .staAbsolute _ => .ofStore .accumulator .absolute
  | .staAbsoluteX _ => .ofStore .accumulator .absoluteX
  | .staAbsoluteY _ => .ofStore .accumulator .absoluteY
  | .staIndirectX _ => .ofStore .accumulator .indirectX
  | .staIndirectY _ => .ofStore .accumulator .indirectY
  | .stxZeroPage _ => .ofStore .registerX .zeroPage
  | .stxZeroPageY _ => .ofStore .registerX .zeroPageY
  | .stxAbsolute _ => .ofStore .registerX .absolute
  | .styZeroPage _ => .ofStore .registerY .zeroPage
  | .styZeroPageX _ => .ofStore .registerY .zeroPageX
  | .styAbsolute _ => .ofStore .registerY .absolute
  | .jsr _ => .ofJsr

/-- Operand bytes of each mode (30_encoding R71, 41_addressing_modes R127). -/
def AddrMode.operandCount : AddrMode → Nat
  | .immediate | .zeroPage | .zeroPageX | .zeroPageY | .indirectX | .indirectY => 1
  | .absolute | .absoluteX | .absoluteY | .absoluteTarget => 2

/-- The length of an instruction in bytes, known from its form alone (30_encoding R76). -/
def Form.length (f : Form) : Nat := 1 + f.mode.operandCount

/-- The length of an instruction in bytes (30_encoding R76). -/
def Instr.length (i : Instr) : Nat := i.form.length

end Sys2Proof
end

