-- ==== Sys2Proof/Machine/Ops.lean ====
section
/-! DEFINITION. The named operations over memory, registers and engine control that every meaning uses: memory
access (20_memory), register access (10_state), the program_counter_sequencer's fetch and charge (40 R91, R92),
the end of an instruction (40 R95), taking a fault (60_exceptions R204) and the call that leaves it (40 R90). -/

namespace Sys2Proof.Machine

/-! ## Memory -/

/-- What an address that no cell lists reads as: memory reset is zero-filled (10_state R36, 70_reset R220). -/
def Memory.unlisted : Byte := 0#8

/-- `M[a]` (20_memory R51). -/
def Memory.read : Memory → Nat → Byte
  | [], _ => Memory.unlisted
  | (k, v) :: rest, a => if a = k then v else if a < k then Memory.unlisted else Memory.read rest a

/-- The cell that records `v` at `a`, none where an unlisted address reads as `v`. -/
def Memory.cell (a : Nat) (v : Byte) : Memory := if v = Memory.unlisted then [] else [(a, v)]

/-- `M[a] <- v` (20_memory R52), keeping the canonical form. -/
def Memory.write : Memory → Nat → Byte → Memory
  | [], a, v => Memory.cell a v
  | (k, w) :: rest, a, v =>
    if a = k then Memory.cell a v ++ rest
    else if a < k then Memory.cell a v ++ (k, w) :: rest
    else (k, w) :: Memory.write rest a v

/-- The canonical form from address `lo` on: addresses strictly rising, all inside the 65536-byte space, no cell
equal to what an unlisted address reads as. -/
def Memory.wfFrom : Nat → Memory → Bool
  | _, [] => true
  | lo, (k, v) :: rest => decide (lo ≤ k) && decide (k < 65536) && v != Memory.unlisted && Memory.wfFrom (k + 1) rest

/-- Memory is in its one canonical form, so that equal contents are equal lists. -/
def Memory.wf (m : Memory) : Bool := Memory.wfFrom 0 m

/-- `MemRead(ea, 1)`: total, no side effect (20_memory R51). -/
def State.memRead (s : State) (ea : Addr) : Byte := Memory.read s.mem ea.toNat

/-- `MemWrite(ea, 1, v)`: total, changes nothing else (20_memory R52). -/
def State.memWrite (s : State) (ea : Addr) (v : Byte) : State := { s with mem := Memory.write s.mem ea.toNat v }

/-! ## Registers -/

/-- `R[sel]` (10_state R26). -/
def State.reg (s : State) : Sel → Byte
  | .accumulator => s.a
  | .registerX => s.x
  | .registerY => s.y

/-- `R[sel] <- v` (10_state R26). -/
def State.setReg (s : State) (sel : Sel) (v : Byte) : State :=
  match sel with
  | .accumulator => { s with a := v }
  | .registerX => { s with x := v }
  | .registerY => { s with y := v }

/-! ## Cycles, fetch and the course of an instruction -/

/-- `charge(n)`: the counter may become zero or negative and nothing else happens (40 R91). -/
def State.charge (s : State) (n : Int) : State := { s with remaining := s.remaining - n }

/-- `FetchByte()`: the byte at PC, PC advanced modulo 65536, one cycle charged (40 R92). -/
def State.fetchByte (s : State) : Byte × State :=
  (s.memRead s.pc, State.charge { s with pc := s.pc + 1#16 } 1)

/-- The state after `k` `FetchByte`s whose bytes the decoder has already read (40 R92; log entry 13). -/
def State.fetched (s : State) : Nat → State
  | 0 => s
  | k + 1 => s.fetchByte.2.fetched k

/-- The bytes an instruction starting at PC can have: the longest is three bytes (30_encoding R71). They are the
bytes three `FetchByte`s return (40 R92), addresses modulo 65536. -/
def State.fetchBytes (s : State) : List Byte :=
  [s.fetchByte.1, (s.fetched 1).fetchByte.1, (s.fetched 2).fetchByte.1]

/-- The opcode fetch of an instruction: mode Executing, PC past the opcode, one cycle (40 R94). -/
def State.opcodeFetched (s : State) : State := State.fetched { s with mode := .executing } 1

/-- The end of an instruction's effect: mode Idle (40 R95). -/
def State.complete (s : State) : State := { s with mode := .idle }

/-- Push one byte on the stack page and charge its cycle: `M[0x0100 + SP] <- v`, SP down by one modulo 256
(44_jsr R190, 20_memory R58). -/
def State.pushByte (s : State) (v : Byte) : State :=
  State.charge { s.memWrite (0x0100#16 + zext16 s.sp) v with sp := s.sp - 1#8 } 1

/-! ## Taking a fault, and the way out of one -/

/-- Fault entry, the one operation every fault goes through: mode Faulted, the record kept, and the call over
(60_exceptions R204: `execute` returns at once).
There is no handler, no vector and no push; `step` reports the record from there (log entry 12). -/
def State.raise (s : State) (r : FaultRecord) : State := { s with mode := .faulted, inCall := false, fault := some r }

/-- UnsupportedOpcode: the opcode fetch has completed, so PC is one past the opcode and one cycle is charged; nothing
else has changed. The record holds the opcode and its own address (60_exceptions R201, 90_conflicts C3). -/
def State.raiseUnsupportedOpcode (s : State) : State :=
  s.opcodeFetched.raise (.unsupportedOpcode (s.memRead s.pc) s.pc)

/-- AddressOverflow: the record is kept and no byte has been written (60_exceptions R204). The state left is
unspecified (R202): every register and the counter hold a free value (log entry 1). -/
def State.raiseAddressOverflow (s : State) (mode : IndexedMode) (base : Addr) (index : Byte) (addr : Addr) : State :=
  State.raise
    { s with
      pc := Config.pcAfterOverflow s.draws
      sp := Config.spAfterOverflow s.draws
      a := Config.aAfterOverflow s.draws
      x := Config.xAfterOverflow s.draws
      y := Config.yAfterOverflow s.draws
      p := Status.unpack (Config.pAfterOverflow s.draws)
      remaining := Config.remainingAfterOverflow s.draws
      draws := s.draws + 1 }
    (.addressOverflow mode base index addr)

/-- The entry of `execute(requested)`: a call in progress, a fresh counter, mode Idle, no fault, registers and memory
kept (40 R90, R103).
It is the only way out of a fault; no instruction returns from one (60_exceptions R207). -/
def State.startCall (s : State) (requested : Int) : State :=
  { s with mode := .idle, inCall := true, requested := requested, remaining := requested, fault := none }

/-- The end of a call at a boundary with no budget left: mode Done and the call over, nothing else changed (40 R93). -/
def State.endCall (s : State) : State := { s with mode := .done, inCall := false }

end Sys2Proof.Machine
end

