-- ==== Sys2Proof/Machine/HostInterface.lean ====
section
/-! DEFINITION. What the host can do and see between calls of `execute` (70_reset R220, R227; 10_state R33). The host
acts only when no call is in progress; it is no agent of `step`. -/

namespace Sys2Proof.Machine

/-- A call of `execute` is in progress: it has been entered and has returned neither a cycle count nor a fault, its
last boundary included (70_reset R227, 40 R93, R101). Mode Executing is inside an instruction of a call. -/
def State.callInProgress (s : State) : Bool := s.inCall || s.mode == .executing

/-- CPU reset: the register file and the engine control to their reset values, memory kept, no cycle, no memory read
(70_reset R220, 10_state R36). `requested` and `remaining` go to the model's reset value (log entry 2). -/
def State.cpuReset (s : State) : State := { State.reset with mem := s.mem, draws := s.draws }

/-- Memory reset: every byte 0x00 (70_reset R220). -/
def State.memoryReset (s : State) : State := { s with mem := [] }

/-- The host writes bytes at an address and the addresses after it, modulo 65536 (70_reset R222). -/
def State.writeBytes (s : State) (a : Addr) : List Byte → State
  | [] => s
  | v :: rest => (s.memWrite a v).writeBytes (a + 1#16) rest

/-- The host's actions between calls (70_reset R227). -/
inductive HostAction where
  | cpuReset
  | memoryReset
  | writeByte (a : Addr) (v : Byte)
  | setPc (v : Addr)
  | setSp (v : Byte)
  | setA (v : Byte)
  | setX (v : Byte)
  | setY (v : Byte)
  | setStatus (p : Status)
  | execute (requested : Int)
deriving DecidableEq, Repr

/-- The effect of a host action on the state (70_reset R220, R227; 40 R90). -/
def State.applyHost (s : State) : HostAction → State
  | .cpuReset => s.cpuReset
  | .memoryReset => s.memoryReset
  | .writeByte a v => s.memWrite a v
  | .setPc v => { s with pc := v }
  | .setSp v => { s with sp := v }
  | .setA v => { s with a := v }
  | .setX v => { s with x := v }
  | .setY v => { s with y := v }
  | .setStatus p => { s with p := p }
  | .execute requested => s.startCall requested

/-- A host action: none is possible during a call (70_reset R227, 92_eei_decisions D17). -/
def hostAct (act : HostAction) (s : State) : Host.Outcome State Fault Refusal :=
  if s.callInProgress then .refused .hostDuringCall else .next (s.applyHost act)

/-- The six-field register snapshot, P packed (10_state R33, R32). -/
structure Snapshot where
  pc : Addr
  sp : Byte
  a : Byte
  x : Byte
  y : Byte
  p : Byte
deriving DecidableEq, Repr

/-- The register snapshot the host reads (10_state R33). -/
def State.snapshot (s : State) : Snapshot := ⟨s.pc, s.sp, s.a, s.x, s.y, s.p.pack⟩

/-- The numeric code of a fault record (60_exceptions R203). -/
def FaultRecord.code : FaultRecord → Nat
  | .unsupportedOpcode _ _ => 1
  | .addressOverflow _ _ _ _ => 2

/-- What `execute` returns: `Result<CyclesUsed, EngineFault>` (40 R97, 60_exceptions R204). -/
inductive CallResult where
  | ok (used : Int)
  | err (record : FaultRecord)
deriving DecidableEq, Repr

/-- The result of the call that has ended in this state, none while none has (40 R101). -/
def State.result (s : State) : Option CallResult :=
  match s.mode with
  | .done => some (.ok (s.requested - s.remaining))
  | .faulted => s.fault.map .err
  | _ => none

end Sys2Proof.Machine
end

