-- ==== Sys2Proof/WellFormed.lean ====
section
/-! DEFINITION. Well-formedness of a decoded form: which records (effect, sel, mode, ctx) are rows of
30_encoding R73. An instruction's operands are bit vectors of the encoding's own widths, so an instruction is
well-formed when its form is. -/

namespace Sys2Proof

/-- `ctx` is `load` for a load, `store` for a store, absent for JSR (30_encoding R75). -/
def Form.ctxMatchesEffect (f : Form) : Bool :=
  match f.effect with
  | .load => f.ctx == some .load
  | .store => f.ctx == some .store
  | .jsr => f.ctx == none

/-- A selector is present exactly when the form is a load or a store (30_encoding R75). -/
def Form.selMatchesEffect (f : Form) : Bool := f.sel.isSome == (f.effect != .jsr)

/-- JSR, and JSR alone, takes a target that the resolver does not see (44_jsr R190). -/
def Form.targetOnlyForJsr (f : Form) : Bool := (f.mode == .absoluteTarget) == (f.effect == .jsr)

/-- No store form has the Immediate mode (43_stores R170). -/
def Form.immediateOnlyLoads (f : Form) : Bool := f.mode != .immediate || f.effect == .load

/-- No form indexes by the register it loads or stores (95_test_vectors, after V33, and 30_encoding R73). -/
def Form.indexIsNotSel (f : Form) : Bool :=
  match f.sel, f.mode with
  | some .registerX, .zeroPageX | some .registerX, .absoluteX => false
  | some .registerY, .zeroPageY | some .registerY, .absoluteY => false
  | _, _ => true

/-- The two indirect modes are LDA's and STA's alone (30_encoding R73). -/
def Form.indirectOnlyAccumulator (f : Form) : Bool :=
  (f.mode != .indirectX && f.mode != .indirectY) || f.sel == some .accumulator

/-- Zero page,Y is LDX's and STX's alone (41_addressing_modes R118). -/
def Form.zeroPageYOnlyX (f : Form) : Bool := f.mode != .zeroPageY || f.sel == some .registerX

/-- STX and STY have no absolute indexed form (30_encoding R73). -/
def Form.absoluteIndexedStoreOnlyAccumulator (f : Form) : Bool :=
  (f.mode != .absoluteX && f.mode != .absoluteY) || f.effect != .store || f.sel == some .accumulator

/-- A form is a row of 30_encoding R73. -/
def Form.wellFormed (f : Form) : Bool :=
  f.ctxMatchesEffect && f.selMatchesEffect && f.targetOnlyForJsr && f.immediateOnlyLoads && f.indexIsNotSel &&
    f.indirectOnlyAccumulator && f.zeroPageYOnlyX && f.absoluteIndexedStoreOnlyAccumulator

/-- An instruction is well-formed when its form is a row of 30_encoding R73. -/
def Instr.wellFormed (i : Instr) : Bool := i.form.wellFormed

end Sys2Proof
end

