-- ==== Sys2Proof/Decode.lean ====
section
/-! DEFINITION. The 6502_decoder (30_encoding R70 to R79) and, after it, the encoder written from the same
table. Bytes go in increasing address order, the opcode first; of an `abs16` operand the low byte comes first. -/

namespace Sys2Proof

/-- The exact-match opcode table of 30_encoding R73 and R79: the instruction of opcode byte `op` with the operand
bytes `b1` (at a + 1) and `b2` (at a + 2, used by `abs16` forms alone). The 224 other bytes have none (R77).
28 of the 32 values are the spec's own choice, 92_eei_decisions D5 (log entry 7). -/
def instrOf (op b1 b2 : Byte) : Option Instr :=
  match op with
  | 0xA9#8 => some (.ldaImmediate b1)
  | 0xA5#8 => some (.ldaZeroPage b1)
  | 0xB5#8 => some (.ldaZeroPageX b1)
  | 0xAD#8 => some (.ldaAbsolute (hiLo b2 b1))
  | 0xBD#8 => some (.ldaAbsoluteX (hiLo b2 b1))
  | 0xB9#8 => some (.ldaAbsoluteY (hiLo b2 b1))
  | 0xA1#8 => some (.ldaIndirectX b1)
  | 0xB1#8 => some (.ldaIndirectY b1)
  | 0xA2#8 => some (.ldxImmediate b1)
  | 0xA6#8 => some (.ldxZeroPage b1)
  | 0xB6#8 => some (.ldxZeroPageY b1)
  | 0xAE#8 => some (.ldxAbsolute (hiLo b2 b1))
  | 0xBE#8 => some (.ldxAbsoluteY (hiLo b2 b1))
  | 0xA0#8 => some (.ldyImmediate b1)
  | 0xA4#8 => some (.ldyZeroPage b1)
  | 0xB4#8 => some (.ldyZeroPageX b1)
  | 0xAC#8 => some (.ldyAbsolute (hiLo b2 b1))
  | 0xBC#8 => some (.ldyAbsoluteX (hiLo b2 b1))
  | 0x85#8 => some (.staZeroPage b1)
  | 0x95#8 => some (.staZeroPageX b1)
  | 0x8D#8 => some (.staAbsolute (hiLo b2 b1))
  | 0x9D#8 => some (.staAbsoluteX (hiLo b2 b1))
  | 0x99#8 => some (.staAbsoluteY (hiLo b2 b1))
  | 0x81#8 => some (.staIndirectX b1)
  | 0x91#8 => some (.staIndirectY b1)
  | 0x86#8 => some (.stxZeroPage b1)
  | 0x96#8 => some (.stxZeroPageY b1)
  | 0x8E#8 => some (.stxAbsolute (hiLo b2 b1))
  | 0x84#8 => some (.styZeroPage b1)
  | 0x94#8 => some (.styZeroPageX b1)
  | 0x8C#8 => some (.styAbsolute (hiLo b2 b1))
  | 0x20#8 => some (.jsr (hiLo b2 b1))
  | _ => none

/-- `decode(op)` of 30_encoding R74: the form of an opcode byte, `none` for the 224 illegal ones. -/
def decodeOpcode (op : Byte) : Option Form := (instrOf op 0 0).map Instr.form

/-- Why a list of bytes is not an instruction. -/
inductive DecodeError where
  /-- No byte at all. -/
  | noBytes
  /-- The first byte is one of the 224 illegal opcodes (30_encoding R77). -/
  | unsupportedOpcode (op : Byte)
  /-- A legal opcode with fewer operand bytes than its format has (30_encoding R71). -/
  | operandBytesMissing (op : Byte)
deriving DecidableEq, Repr

/-- The instruction at the head of a list of bytes, and the bytes after it. Total; every rejection has a name. -/
def decode : List Byte → Except DecodeError (Instr × List Byte)
  | [] => .error .noBytes
  | op :: rest =>
    match instrOf op (rest.getD 0 0) (rest.getD 1 0) with
    | none => .error (.unsupportedOpcode op)
    | some i =>
      if i.length ≤ rest.length + 1 then .ok (i, rest.drop (i.length - 1)) else .error (.operandBytesMissing op)

/-- Byte `k` of a row's bits: bit 0 is the least significant bit of the opcode byte, the next byte's bits count on
from 8, and every bit above `nbits` is 0. -/
def tableByte (nbits w k : Nat) : Byte := BitVec.ofNat 8 (w % 2 ^ nbits / 2 ^ (8 * k))

/-- The three bytes (the longest instruction) of a row's bits, the opcode byte first. -/
def tableBytes (nbits w : Nat) : List Byte := [tableByte nbits w 0, tableByte nbits w 1, tableByte nbits w 2]

/-- The instruction the decoder reads from bits numbered as spec/opcode_table.json numbers them. -/
def decodeTableWord (nbits w : Nat) : Option Instr :=
  match decode (tableBytes nbits w) with
  | .ok (i, _) => some i
  | .error _ => none

/-- The opcode byte of each form, column "opcode" of 30_encoding R73. -/
def Instr.opcode : Instr → Byte
  | .ldaImmediate _ => 0xA9#8
  | .ldaZeroPage _ => 0xA5#8
  | .ldaZeroPageX _ => 0xB5#8
  | .ldaAbsolute _ => 0xAD#8
  | .ldaAbsoluteX _ => 0xBD#8
  | .ldaAbsoluteY _ => 0xB9#8
  | .ldaIndirectX _ => 0xA1#8
  | .ldaIndirectY _ => 0xB1#8
  | .ldxImmediate _ => 0xA2#8
  | .ldxZeroPage _ => 0xA6#8
  | .ldxZeroPageY _ => 0xB6#8
  | .ldxAbsolute _ => 0xAE#8
  | .ldxAbsoluteY _ => 0xBE#8
  | .ldyImmediate _ => 0xA0#8
  | .ldyZeroPage _ => 0xA4#8
  | .ldyZeroPageX _ => 0xB4#8
  | .ldyAbsolute _ => 0xAC#8
  | .ldyAbsoluteX _ => 0xBC#8
  | .staZeroPage _ => 0x85#8
  | .staZeroPageX _ => 0x95#8
  | .staAbsolute _ => 0x8D#8
  | .staAbsoluteX _ => 0x9D#8
  | .staAbsoluteY _ => 0x99#8
  | .staIndirectX _ => 0x81#8
  | .staIndirectY _ => 0x91#8
  | .stxZeroPage _ => 0x86#8
  | .stxZeroPageY _ => 0x96#8
  | .stxAbsolute _ => 0x8E#8
  | .styZeroPage _ => 0x84#8
  | .styZeroPageX _ => 0x94#8
  | .styAbsolute _ => 0x8C#8
  | .jsr _ => 0x20#8

/-- The operand bytes of an `abs16` form, low byte first (30_encoding R71, R72; log entry 6). -/
def absBytes (w : Addr) : List Byte := [lowByte w, highByte w]

/-- The operand bytes of each form in increasing address order (30_encoding R71). -/
def Instr.operandBytes : Instr → List Byte
  | .ldaImmediate v | .ldxImmediate v | .ldyImmediate v => [v]
  | .ldaZeroPage z | .ldaZeroPageX z | .ldaIndirectX z | .ldaIndirectY z => [z]
  | .ldxZeroPage z | .ldxZeroPageY z | .ldyZeroPage z | .ldyZeroPageX z => [z]
  | .staZeroPage z | .staZeroPageX z | .staIndirectX z | .staIndirectY z => [z]
  | .stxZeroPage z | .stxZeroPageY z | .styZeroPage z | .styZeroPageX z => [z]
  | .ldaAbsolute w | .ldaAbsoluteX w | .ldaAbsoluteY w => absBytes w
  | .ldxAbsolute w | .ldxAbsoluteY w | .ldyAbsolute w | .ldyAbsoluteX w => absBytes w
  | .staAbsolute w | .staAbsoluteX w | .staAbsoluteY w | .stxAbsolute w | .styAbsolute w => absBytes w
  | .jsr target => absBytes target

/-- The bytes of an instruction: the opcode, then the operand bytes (30_encoding R70, R71). -/
def encode (i : Instr) : List Byte := i.opcode :: i.operandBytes

end Sys2Proof
end

