-- ==== Sys2Proof/Machine/Operands.lean ====
section
/-! DEFINITION. The addressing_mode_resolver (41_addressing_modes). A resolver runs after the opcode fetch; it
writes PC and the counter only (R110). -/

namespace Sys2Proof.Machine

/-- The operand of a form that reaches memory, with what its operand bytes hold (30_encoding R72). -/
inductive MemOperand where
  | zeroPage (z : Byte)
  | zeroPageX (z : Byte)
  | zeroPageY (z : Byte)
  | absolute (a : Addr)
  | absoluteX (base : Addr)
  | absoluteY (base : Addr)
  | indirectX (z : Byte)
  | indirectY (z : Byte)
deriving DecidableEq, Repr

/-- The operand of a load: the value itself, or a place in memory (41_addressing_modes R110). -/
inductive Operand where
  | immediate (v : Byte)
  | mem (o : MemOperand)
deriving DecidableEq, Repr

/-- What resolving a memory operand gives: an effective address, or the AddressOverflow of 41_addressing_modes R114
with what its record holds. -/
inductive Located where
  | addr (ea : Addr)
  | overflow (mode : IndexedMode) (base : Addr) (index : Byte)
deriving DecidableEq, Repr

/-- What `resolve` yields (41_addressing_modes R110). -/
inductive Resolved where
  | imm (v : Byte)
  | loc (l : Located)
deriving DecidableEq, Repr

/-- `PageCross(base, ea)` (41_addressing_modes R112). -/
def pageCross (base ea : Addr) : Bool := (base ^^^ ea) &&& 0xFF00#16 != 0#16

/-- The address of a zero-page pointer's second byte: `(p + 1) mod 256`, or `p + 1` where the parameter
`ZP_POINTER_WRAP` is false (41_addressing_modes R111). -/
def ptrHighAddr (wrap : Bool) (p : Byte) : Addr := if wrap then zext16 (p + 1#8) else zext16 p + 1#16

/-- `ReadPtrZP(p)`: the pointer in the zero page at `p`, low byte first, one cycle for each byte
(41_addressing_modes R111; log entry 4). -/
def State.readPtrZPWith (wrap : Bool) (s : State) (p : Byte) : Addr × State :=
  (hiLo (s.memRead (ptrHighAddr wrap p)) (s.memRead (zext16 p)), (s.charge 1).charge 1)

/-- `ReadPtrZP(p)` at the spec's value of `ZP_POINTER_WRAP`. -/
def State.readPtrZP (s : State) (p : Byte) : Addr × State := s.readPtrZPWith Config.zpPointerWrap p

/-- The indexed 16-bit sum of Absolute,X, Absolute,Y and (Indirect),Y: a sum above 0xFFFF overflows before any
further charge (41_addressing_modes R114); otherwise a store charges one cycle always and a load only where the
page is crossed (R113, R120 to R123, R125, R126). -/
def State.indexed (s : State) (ctx : Ctx) (mode : IndexedMode) (base : Addr) (index : Byte) : Located × State :=
  if 0xFFFF < base.toNat + index.toNat then (.overflow mode base index, s)
  else
    let ea := base + zext16 index
    match ctx with
    | .load => (.addr ea, if pageCross base ea then s.charge 1 else s)
    | .store => (.addr ea, s.charge 1)

/-- The resolvers of the modes that reach memory (41_addressing_modes R116 to R126). -/
def State.locate (s : State) (ctx : Ctx) : MemOperand → Located × State
  | .zeroPage z => (.addr (zext16 z), s.fetched 1)
  | .zeroPageX z => (.addr (zext16 (z + s.x)), (s.fetched 1).charge 1)
  | .zeroPageY z => (.addr (zext16 (z + s.y)), (s.fetched 1).charge 1)
  | .absolute a => (.addr a, s.fetched 2)
  | .absoluteX base => (s.fetched 2).indexed ctx .absoluteX base s.x
  | .absoluteY base => (s.fetched 2).indexed ctx .absoluteY base s.y
  | .indirectX z =>
    let r := ((s.fetched 1).charge 1).readPtrZP (z + s.x)
    (.addr r.1, r.2)
  | .indirectY z =>
    let r := (s.fetched 1).readPtrZP z
    r.2.indexed ctx .indirectY r.1 s.y

/-- `resolve(mode, ctx)` (41_addressing_modes R110); the Immediate resolver yields the value (R115, 90_conflicts C9). -/
def State.resolve (s : State) (ctx : Ctx) : Operand → Resolved × State
  | .immediate v => (.imm v, s.fetched 1)
  | .mem o => ((.loc (s.locate ctx o).1), (s.locate ctx o).2)

/-- The memory operand of an instruction: none for the Immediate forms and for JSR (30_encoding R73). -/
def memOperand : Instr → Option MemOperand
  | .ldaZeroPage z | .ldxZeroPage z | .ldyZeroPage z | .staZeroPage z | .stxZeroPage z | .styZeroPage z =>
    some (.zeroPage z)
  | .ldaZeroPageX z | .ldyZeroPageX z | .staZeroPageX z | .styZeroPageX z => some (.zeroPageX z)
  | .ldxZeroPageY z | .stxZeroPageY z => some (.zeroPageY z)
  | .ldaAbsolute a | .ldxAbsolute a | .ldyAbsolute a | .staAbsolute a | .stxAbsolute a | .styAbsolute a =>
    some (.absolute a)
  | .ldaAbsoluteX base | .ldyAbsoluteX base | .staAbsoluteX base => some (.absoluteX base)
  | .ldaAbsoluteY base | .ldxAbsoluteY base | .staAbsoluteY base => some (.absoluteY base)
  | .ldaIndirectX z | .staIndirectX z => some (.indirectX z)
  | .ldaIndirectY z | .staIndirectY z => some (.indirectY z)
  | .ldaImmediate _ | .ldxImmediate _ | .ldyImmediate _ | .jsr _ => none

end Sys2Proof.Machine
end

