-- ==== Sys2Proof/Machine/ControlFlow.lean ====
section
/-! DEFINITION. JSR (44_jsr R190 to R192), the only control transfer in scope. -/

namespace Sys2Proof.Machine

/-- JSR's two return-address writes, one cycle each, at either value of `JSR_RETURN_DISCIPLINE`: on the stack page,
high byte first (44_jsr R190), or into the target itself, low byte first, SP untouched (R191). -/
def State.writeReturn (d : JsrDiscipline) (s : State) (target ret : Addr) : State :=
  match d with
  | .stack => (s.pushByte (highByte ret)).pushByte (lowByte ret)
  | .targetOverwrite =>
    (((s.memWrite target (lowByte ret)).charge 1).memWrite (target + 1#16) (highByte ret)).charge 1

/-- JSR under a return discipline: two operand fetches, the return address `PC - 1` modulo 65536 (log entry 5), its
two writes, then PC <- target and one more cycle; no flag is touched (44_jsr R190, R191). -/
def jsrWith (d : JsrDiscipline) (target : Addr) (s : State) : Host.Outcome State Fault Refusal :=
  let t := s.opcodeFetched.fetched 2
  .next (State.charge { t.writeReturn d target (t.pc - 1#16) with pc := target } 1).complete

/-- JSR, 0x20 (44_jsr R190), at the spec's decision `JSR_RETURN_DISCIPLINE = stack` (92_eei_decisions D2). -/
def execJsr (target : Addr) (s : State) : Host.Outcome State Fault Refusal :=
  jsrWith Config.jsrReturnDiscipline target s

end Sys2Proof.Machine
end

