-- ==== Sys2Proof/Machine/Loads.lean ====
section
/-! DEFINITION. LDA, LDX, LDY: the generic load (42_loads R141) and one meaning per form (R142 to R159). A meaning
runs the whole instruction, from the boundary at its opcode to the boundary after it. -/

namespace Sys2Proof.Machine

/-- The end of a load: the value goes to `R[sel]` and sets Z and N (42_loads R141, R140). -/
def State.loadInto (s : State) (sel : Sel) (v : Byte) : State := ((s.setReg sel v).updZN v).complete

/-- `Load(sel, mode)` after the opcode fetch of 40 R94 (42_loads R141). -/
def load (sel : Sel) (o : Operand) (s : State) : Host.Outcome State Fault Refusal :=
  match s.opcodeFetched.resolve .load o with
  | (.imm v, t) => .next (t.loadInto sel v)
  | (.loc (.addr ea), t) => .next ((t.charge 1).loadInto sel (t.memRead ea))
  | (.loc (.overflow mode base index), t) => .next (t.raiseAddressOverflow mode base index s.pc)

/-- LDA Immediate, 0xA9 (42_loads R142). -/
def execLdaImmediate (v : Byte) (s : State) : Host.Outcome State Fault Refusal := load .accumulator (.immediate v) s

/-- LDA Zero page, 0xA5 (42_loads R143). -/
def execLdaZeroPage (z : Byte) (s : State) : Host.Outcome State Fault Refusal :=
  load .accumulator (.mem (.zeroPage z)) s

/-- LDA Zero page,X, 0xB5 (42_loads R144). -/
def execLdaZeroPageX (z : Byte) (s : State) : Host.Outcome State Fault Refusal :=
  load .accumulator (.mem (.zeroPageX z)) s

/-- LDA Absolute, 0xAD (42_loads R145). -/
def execLdaAbsolute (a : Addr) (s : State) : Host.Outcome State Fault Refusal :=
  load .accumulator (.mem (.absolute a)) s

/-- LDA Absolute,X, 0xBD (42_loads R146). -/
def execLdaAbsoluteX (base : Addr) (s : State) : Host.Outcome State Fault Refusal :=
  load .accumulator (.mem (.absoluteX base)) s

/-- LDA Absolute,Y, 0xB9 (42_loads R147). -/
def execLdaAbsoluteY (base : Addr) (s : State) : Host.Outcome State Fault Refusal :=
  load .accumulator (.mem (.absoluteY base)) s

/-- LDA (Indirect,X), 0xA1 (42_loads R148). -/
def execLdaIndirectX (z : Byte) (s : State) : Host.Outcome State Fault Refusal :=
  load .accumulator (.mem (.indirectX z)) s

/-- LDA (Indirect),Y, 0xB1 (42_loads R149). -/
def execLdaIndirectY (z : Byte) (s : State) : Host.Outcome State Fault Refusal :=
  load .accumulator (.mem (.indirectY z)) s

/-- LDX Immediate, 0xA2 (42_loads R150). -/
def execLdxImmediate (v : Byte) (s : State) : Host.Outcome State Fault Refusal := load .registerX (.immediate v) s

/-- LDX Zero page, 0xA6 (42_loads R151). -/
def execLdxZeroPage (z : Byte) (s : State) : Host.Outcome State Fault Refusal :=
  load .registerX (.mem (.zeroPage z)) s

/-- LDX Zero page,Y, 0xB6 (42_loads R152). -/
def execLdxZeroPageY (z : Byte) (s : State) : Host.Outcome State Fault Refusal :=
  load .registerX (.mem (.zeroPageY z)) s

/-- LDX Absolute, 0xAE (42_loads R153). -/
def execLdxAbsolute (a : Addr) (s : State) : Host.Outcome State Fault Refusal :=
  load .registerX (.mem (.absolute a)) s

/-- LDX Absolute,Y, 0xBE (42_loads R154). -/
def execLdxAbsoluteY (base : Addr) (s : State) : Host.Outcome State Fault Refusal :=
  load .registerX (.mem (.absoluteY base)) s

/-- LDY Immediate, 0xA0 (42_loads R155). -/
def execLdyImmediate (v : Byte) (s : State) : Host.Outcome State Fault Refusal := load .registerY (.immediate v) s

/-- LDY Zero page, 0xA4 (42_loads R156). -/
def execLdyZeroPage (z : Byte) (s : State) : Host.Outcome State Fault Refusal :=
  load .registerY (.mem (.zeroPage z)) s

/-- LDY Zero page,X, 0xB4 (42_loads R157). -/
def execLdyZeroPageX (z : Byte) (s : State) : Host.Outcome State Fault Refusal :=
  load .registerY (.mem (.zeroPageX z)) s

/-- LDY Absolute, 0xAC (42_loads R158). -/
def execLdyAbsolute (a : Addr) (s : State) : Host.Outcome State Fault Refusal :=
  load .registerY (.mem (.absolute a)) s

/-- LDY Absolute,X, 0xBC (42_loads R159). -/
def execLdyAbsoluteX (base : Addr) (s : State) : Host.Outcome State Fault Refusal :=
  load .registerY (.mem (.absoluteX base)) s

end Sys2Proof.Machine
end

