-- ==== Sys2Proof/Machine/Stores.lean ====
section
/-! DEFINITION. STA, STX, STY: the generic store (43_stores R170) and one meaning per form (R171 to R183). No store
touches a flag. -/

namespace Sys2Proof.Machine

/-- `Store(sel, mode)` after the opcode fetch of 40 R94: no store form has the Immediate mode, so the operand is a
place in memory (43_stores R170). -/
def store (sel : Sel) (o : MemOperand) (s : State) : Host.Outcome State Fault Refusal :=
  match s.opcodeFetched.locate .store o with
  | (.addr ea, t) => .next ((t.memWrite ea (t.reg sel)).charge 1).complete
  | (.overflow mode base index, t) => .next (t.raiseAddressOverflow mode base index s.pc)

/-- STA Zero page, 0x85 (43_stores R171). -/
def execStaZeroPage (z : Byte) (s : State) : Host.Outcome State Fault Refusal := store .accumulator (.zeroPage z) s

/-- STA Zero page,X, 0x95 (43_stores R172). -/
def execStaZeroPageX (z : Byte) (s : State) : Host.Outcome State Fault Refusal := store .accumulator (.zeroPageX z) s

/-- STA Absolute, 0x8D (43_stores R173). -/
def execStaAbsolute (a : Addr) (s : State) : Host.Outcome State Fault Refusal := store .accumulator (.absolute a) s

/-- STA Absolute,X, 0x9D (43_stores R174). -/
def execStaAbsoluteX (base : Addr) (s : State) : Host.Outcome State Fault Refusal :=
  store .accumulator (.absoluteX base) s

/-- STA Absolute,Y, 0x99 (43_stores R175). -/
def execStaAbsoluteY (base : Addr) (s : State) : Host.Outcome State Fault Refusal :=
  store .accumulator (.absoluteY base) s

/-- STA (Indirect,X), 0x81 (43_stores R176). -/
def execStaIndirectX (z : Byte) (s : State) : Host.Outcome State Fault Refusal := store .accumulator (.indirectX z) s

/-- STA (Indirect),Y, 0x91 (43_stores R177). -/
def execStaIndirectY (z : Byte) (s : State) : Host.Outcome State Fault Refusal := store .accumulator (.indirectY z) s

/-- STX Zero page, 0x86 (43_stores R178). -/
def execStxZeroPage (z : Byte) (s : State) : Host.Outcome State Fault Refusal := store .registerX (.zeroPage z) s

/-- STX Zero page,Y, 0x96 (43_stores R179). -/
def execStxZeroPageY (z : Byte) (s : State) : Host.Outcome State Fault Refusal := store .registerX (.zeroPageY z) s

/-- STX Absolute, 0x8E (43_stores R180). -/
def execStxAbsolute (a : Addr) (s : State) : Host.Outcome State Fault Refusal := store .registerX (.absolute a) s

/-- STY Zero page, 0x84 (43_stores R181). -/
def execStyZeroPage (z : Byte) (s : State) : Host.Outcome State Fault Refusal := store .registerY (.zeroPage z) s

/-- STY Zero page,X, 0x94 (43_stores R182). -/
def execStyZeroPageX (z : Byte) (s : State) : Host.Outcome State Fault Refusal := store .registerY (.zeroPageX z) s

/-- STY Absolute, 0x8C (43_stores R183). -/
def execStyAbsolute (a : Addr) (s : State) : Host.Outcome State Fault Refusal := store .registerY (.absolute a) s

end Sys2Proof.Machine
end

