-- ==== Sys2Proof/Machine/Dispatch.lean ====
section
/-! DEFINITION. Dispatch (40 R95): one arm per form of 30_encoding R73, each one call of its own meaning. -/

namespace Sys2Proof.Machine

def exec (i : Instr) (s : State) : Host.Outcome State Fault Refusal :=
  match i with
  | .ldaImmediate v => Sys2Proof.Machine.execLdaImmediate v s
  | .ldaZeroPage z => Sys2Proof.Machine.execLdaZeroPage z s
  | .ldaZeroPageX z => Sys2Proof.Machine.execLdaZeroPageX z s
  | .ldaAbsolute a => Sys2Proof.Machine.execLdaAbsolute a s
  | .ldaAbsoluteX base => Sys2Proof.Machine.execLdaAbsoluteX base s
  | .ldaAbsoluteY base => Sys2Proof.Machine.execLdaAbsoluteY base s
  | .ldaIndirectX z => Sys2Proof.Machine.execLdaIndirectX z s
  | .ldaIndirectY z => Sys2Proof.Machine.execLdaIndirectY z s
  | .ldxImmediate v => Sys2Proof.Machine.execLdxImmediate v s
  | .ldxZeroPage z => Sys2Proof.Machine.execLdxZeroPage z s
  | .ldxZeroPageY z => Sys2Proof.Machine.execLdxZeroPageY z s
  | .ldxAbsolute a => Sys2Proof.Machine.execLdxAbsolute a s
  | .ldxAbsoluteY base => Sys2Proof.Machine.execLdxAbsoluteY base s
  | .ldyImmediate v => Sys2Proof.Machine.execLdyImmediate v s
  | .ldyZeroPage z => Sys2Proof.Machine.execLdyZeroPage z s
  | .ldyZeroPageX z => Sys2Proof.Machine.execLdyZeroPageX z s
  | .ldyAbsolute a => Sys2Proof.Machine.execLdyAbsolute a s
  | .ldyAbsoluteX base => Sys2Proof.Machine.execLdyAbsoluteX base s
  | .staZeroPage z => Sys2Proof.Machine.execStaZeroPage z s
  | .staZeroPageX z => Sys2Proof.Machine.execStaZeroPageX z s
  | .staAbsolute a => Sys2Proof.Machine.execStaAbsolute a s
  | .staAbsoluteX base => Sys2Proof.Machine.execStaAbsoluteX base s
  | .staAbsoluteY base => Sys2Proof.Machine.execStaAbsoluteY base s
  | .staIndirectX z => Sys2Proof.Machine.execStaIndirectX z s
  | .staIndirectY z => Sys2Proof.Machine.execStaIndirectY z s
  | .stxZeroPage z => Sys2Proof.Machine.execStxZeroPage z s
  | .stxZeroPageY z => Sys2Proof.Machine.execStxZeroPageY z s
  | .stxAbsolute a => Sys2Proof.Machine.execStxAbsolute a s
  | .styZeroPage z => Sys2Proof.Machine.execStyZeroPage z s
  | .styZeroPageX z => Sys2Proof.Machine.execStyZeroPageX z s
  | .styAbsolute a => Sys2Proof.Machine.execStyAbsolute a s
  | .jsr target => Sys2Proof.Machine.execJsr target s

end Sys2Proof.Machine
end

