-- ==== Sys2Proof/Machine/Sequencer.lean ====
section
/-! DEFINITION. The program_counter_sequencer's loop at an instruction boundary (40 R93 to R96). -/

namespace Sys2Proof.Machine

/-- The body of the loop at a boundary with budget left: fetch, decode, run (40 R94, R95). The decoder is given the
three bytes at PC; only an illegal opcode makes it reject them (60_exceptions R201). -/
def State.runInstruction (s : State) : Host.Outcome State Fault Refusal :=
  match decode s.fetchBytes with
  | .ok (i, _) => exec i s
  | .error _ => .next s.raiseUnsupportedOpcode

/-- The instruction boundary inside a call: the budget is tested before anything is fetched (40 R93,
60_exceptions R206). -/
def State.atBoundary (s : State) : Host.Outcome State Fault Refusal :=
  if s.remaining ≤ 0 then .next s.endCall else s.runInstruction

end Sys2Proof.Machine
end

