-- ==== Sys2Proof/Machine/Step.lean ====
section
/-! DEFINITION. One step of the engine: one whole instruction, or the end of a call (40 R93, R94, R96). -/

namespace Sys2Proof.Machine

/-- One step. At a boundary inside a call the engine ends the call or runs one instruction (40 R93). With no call in
progress it does nothing of its own: Idle and Done stay as they are (log entry 9), Faulted reports its record
(60_exceptions R204, log entry 12). -/
def step (s : State) : Host.Outcome State Fault Refusal :=
  match s.mode with
  | .idle => if s.inCall then s.atBoundary else .next s
  | .done => .next s
  | .faulted =>
    match s.fault with
    | some r => .fault (.engineFault r)
    | none => .refused .notAtBoundary
  | .executing => .refused .notAtBoundary

/-- The host's load of one instruction: its bytes written from PC on and, where no call is ready to fetch, a call of
`execute(1)` started, so that the next step fetches and runs exactly it (70_reset R222, 40 R98; log entry 11). -/
def State.withFetchWord (s : State) (nbits w : Nat) : State :=
  let t := s.writeBytes s.pc (tableBytes nbits w)
  if t.mode = .idle ∧ t.inCall = true ∧ 0 < t.remaining then t else t.startCall 1

end Sys2Proof.Machine
end

