-- ==== Sys2Proof/Machine/Execute.lean ====
section
/-! DEFINITION. The whole of `execute` (40 R102): steps from the start of a call to Done or Faulted. -/

namespace Sys2Proof.Machine

/-- At most `k` steps, stopping where the call has ended. -/
def State.runCall : Nat → State → State
  | 0, s => s
  | k + 1, s =>
    match step s with
    | .next t => if t.mode = .idle then t.runCall k else t
    | _ => s

/-- `execute(requested)` (40 R90, R102): its final state, whose `result` is what it returns. Each instruction charges
at least 2 cycles (40 R102), so `requested + 1` steps always reach the end. -/
def State.execute (s : State) (requested : Int) : State := (s.startCall requested).runCall (requested.toNat + 1)

end Sys2Proof.Machine
end

