-- ==== Sys2Proof/Machine/Pseudocode.lean ====
section
/-! DEFINITION. A second, literal transcription of the spec's pseudocode: the loop body of 40 R102 fetches the opcode
byte, decodes it alone, dispatches on the form (effect, sel, mode, ctx) and fetches each operand byte with `FetchByte`
where the rule does. No `Instr` and no meaning of the machine appears in it. It is not what `step` runs; an obligation
says that `step` agrees with it. -/

namespace Sys2Proof.Machine.Pseudocode

/-- What `resolve` answers: an operand with the state after it, or the AddressOverflow it raises. -/
inductive Answer where
  | imm (v : Byte) (s : State)
  | addr (ea : Addr) (s : State)
  | overflow (mode : IndexedMode) (base : Addr) (index : Byte) (s : State)

/-- `h:l` of the next two instruction-stream bytes, low byte first (41_addressing_modes R119). -/
def fetchWord (s : State) : Addr × State :=
  let (l, s) := s.fetchByte
  let (h, s) := s.fetchByte
  (BitVec.ofNat 16 (h.toNat * 256 + l.toNat), s)

/-- `ReadPtrZP(p)` with `ZP_POINTER_WRAP` true (41_addressing_modes R111). -/
def readPtrZP (s : State) (p : Nat) : Nat × State :=
  let lo := Memory.read s.mem p
  let s := s.charge 1
  let hi := Memory.read s.mem ((p + 1) % 256)
  let s := s.charge 1
  (hi.toNat * 256 + lo.toNat, s)

/-- The tail of R120 to R123, R125 and R126: the sum, the no-wrap check, the charge of the context. -/
def addIndex (s : State) (ctx : Ctx) (mode : IndexedMode) (base : Nat) (index : Byte) : Answer :=
  let sum := base + index.toNat
  if sum > 0xFFFF then .overflow mode (BitVec.ofNat 16 base) index s
  else if ctx = .store then .addr (BitVec.ofNat 16 sum) (s.charge 1)
  else if (base ^^^ sum) &&& 0xFF00 ≠ 0 then .addr (BitVec.ofNat 16 sum) (s.charge 1)
  else .addr (BitVec.ofNat 16 sum) s

/-- `resolve(mode, ctx)` with PC at the first operand byte (41_addressing_modes R110, R115 to R126). JSR's target is
no addressing mode of the resolver; its row reads an absolute operand. -/
def resolve (s : State) (mode : AddrMode) (ctx : Ctx) : Answer :=
  match mode with
  | .immediate => let (v, s) := s.fetchByte; .imm v s
  | .zeroPage => let (z, s) := s.fetchByte; .addr (BitVec.ofNat 16 z.toNat) s
  | .zeroPageX =>
    let (z, s) := s.fetchByte
    let s := s.charge 1
    .addr (BitVec.ofNat 16 ((z.toNat + s.x.toNat) % 256)) s
  | .zeroPageY =>
    let (z, s) := s.fetchByte
    let s := s.charge 1
    .addr (BitVec.ofNat 16 ((z.toNat + s.y.toNat) % 256)) s
  | .absolute | .absoluteTarget => let (a, s) := fetchWord s; .addr a s
  | .absoluteX => let (a, s) := fetchWord s; addIndex s ctx .absoluteX a.toNat s.x
  | .absoluteY => let (a, s) := fetchWord s; addIndex s ctx .absoluteY a.toNat s.y
  | .indirectX =>
    let (z, s) := s.fetchByte
    let p := (z.toNat + s.x.toNat) % 256
    let s := s.charge 1
    let (ea, s) := readPtrZP s p
    .addr (BitVec.ofNat 16 ea) s
  | .indirectY =>
    let (z, s) := s.fetchByte
    let (base, s) := readPtrZP s z.toNat
    addIndex s ctx .indirectY base s.y

/-- `R[sel] <- v; updZN(v)`, flags from the value as a number (42_loads R141, R140). -/
def finishLoad (s : State) (sel : Sel) (v : Byte) : State :=
  let s := s.setReg sel v
  { s with p := { s.p with z := decide (v.toNat = 0), n := decide (128 ≤ v.toNat) } }

/-- The effect of a decoded form, `a` being the opcode's address (42_loads R141, 43_stores R170, 44_jsr R190). The
records that are no row of 30_encoding R73 have no rule and leave the state alone. -/
def runForm (f : Form) (a : Addr) (s : State) : State :=
  match f.effect, f.sel with
  | .load, some sel =>
    match resolve s f.mode .load with
    | .imm v s => { finishLoad s sel v with mode := .idle }
    | .addr ea s =>
      let v := s.memRead ea
      { finishLoad (s.charge 1) sel v with mode := .idle }
    | .overflow mode base index s => s.raiseAddressOverflow mode base index a
  | .store, some sel =>
    match resolve s f.mode .store with
    | .imm _ s => s
    | .addr ea s => { (s.memWrite ea (s.reg sel)).charge 1 with mode := .idle }
    | .overflow mode base index s => s.raiseAddressOverflow mode base index a
  | .jsr, none =>
    let (target, s) := fetchWord s
    let ret := s.pc - 1#16
    let s := s.memWrite (BitVec.ofNat 16 (0x0100 + s.sp.toNat)) (BitVec.ofNat 8 (ret.toNat / 256))
    let s := { s with sp := s.sp - 1#8 }
    let s := s.charge 1
    let s := s.memWrite (BitVec.ofNat 16 (0x0100 + s.sp.toNat)) (BitVec.ofNat 8 (ret.toNat % 256))
    let s := { s with sp := s.sp - 1#8 }
    let s := s.charge 1
    let s := { s with pc := target }
    let s := s.charge 1
    { s with mode := .idle }
  | _, _ => s

/-- One pass through the loop of 40 R102 from an instruction boundary inside a call. -/
def loopBody (s : State) : State :=
  if s.remaining ≤ 0 then { s with mode := .done, inCall := false }
  else
    let s := { s with mode := .executing }
    let a := s.pc
    let (op, s) := s.fetchByte
    match decodeOpcode op with
    | none => s.raise (.unsupportedOpcode op a)
    | some f => runForm f a s

end Sys2Proof.Machine.Pseudocode
end

