-- ==== Sys2Proof/Safety.lean ====
section
/-! DEFINITION. What claims about the machine are stated in: the invariant of every reachable state, the invariant of
the cycle counter, and what a safe run is. -/

namespace Sys2Proof.Machine

/-- What holds in every state a run or the host can reach: memory in its canonical form (10_state R34, R38), mode
Executing never observable (10_state R35, 40 R96), a record kept exactly in mode Faulted (10_state R35), and a call in
progress only in mode Idle, for Done and Faulted are the ends of a call (10_state R35, 40 R101). -/
structure State.Inv (s : State) : Prop where
  memory : Memory.wf s.mem = true
  boundary : s.mode ≠ .executing
  record : s.mode = .faulted ↔ s.fault.isSome = true
  call : s.inCall = true → s.mode = .idle

/-- The counter of a call that has not faulted (40 R93, R98): a call for no cycles keeps its counter; any other
overruns its budget by at most 5 cycles; and Done is reached with no budget left. -/
structure State.BudgetInv (s : State) : Prop where
  unrun : s.mode ≠ .faulted → s.requested ≤ 0 → s.remaining = s.requested
  overrun : s.mode ≠ .faulted → 0 < s.requested → -5 ≤ s.remaining ∧ s.remaining ≤ s.requested
  spent : s.mode = .done → s.remaining ≤ 0

/-- A call has ended (40 R101). -/
def State.CallEnded (s : State) : Prop := s.mode = .done ∨ s.mode = .faulted

/-- A safe end: the call returned a cycle count and no fault (40 R101, 70_reset R227). -/
def State.EndedSafely (s : State) : Prop := s.mode = .done

/-- Where an instruction finds or puts its byte from `s`: what its mode's resolver locates after the opcode fetch
(41_addressing_modes R110); none for the Immediate forms and for JSR. -/
def located (i : Instr) (s : State) : Option Located :=
  (memOperand i).map fun o => (s.opcodeFetched.locate (if i.form.effect = .store then .store else .load) o).1

/-- The instruction's indexed 16-bit sum, where its mode has one, stays within 0xFFFF from `s`
(41_addressing_modes R114). -/
def SumFits (i : Instr) (s : State) : Prop :=
  match i with
  | .ldaAbsoluteX base | .ldyAbsoluteX base | .staAbsoluteX base => base.toNat + s.x.toNat ≤ 0xFFFF
  | .ldaAbsoluteY base | .ldxAbsoluteY base | .staAbsoluteY base => base.toNat + s.y.toNat ≤ 0xFFFF
  | .ldaIndirectY z | .staIndirectY z => (s.readPtrZP z).1.toNat + s.y.toNat ≤ 0xFFFF
  | _ => True

/-- The addresses an instruction writes from `s`: a store's effective address, as its meaning locates it (43_stores
R170); JSR's two bytes of the stack page (44_jsr R190); none for a load (42_loads R141). -/
def writtenAddrs (i : Instr) (s : State) : List Nat :=
  match i with
  | .jsr _ => [(0x0100#16 + zext16 s.sp).toNat, (0x0100#16 + zext16 (s.sp - 1#8)).toNat]
  | _ =>
    match i.form.effect, located i s with
    | .store, some (.addr ea) => [ea.toNat]
    | _, _ => []

end Sys2Proof.Machine
end

