-- ==== Sys2Proof/Certificates/Slice0/Obligations.lean ====
section
/-! DEFINITION. The statements for the provers: `def Obligations.<Name> : Prop`. Each says in its docstring which rule
of spec/ it formalises. The right-hand sides are written out from the rules, in numbers, not in the machine's own
operations. -/

open Sys2Proof Sys2Proof.Machine

/-! ## What the rules expect, in numbers -/

namespace Sys2Proof.Expected

/-- PC past `len` bytes, `cycles` charged, back at the boundary. -/
def run (s : State) (len : Nat) (cycles : Int) : State :=
  { s with pc := BitVec.ofNat 16 (s.pc.toNat + len), remaining := s.remaining - cycles, mode := .idle }

/-- Z and N of a loaded value, the other flags as they were (42_loads R140). -/
def flags (p : Status) (v : Byte) : Status := { p with z := decide (v.toNat = 0), n := decide (128 ≤ v.toNat) }

/-- A completed LDA of `v`. -/
def lda (s : State) (len : Nat) (cycles : Int) (v : Byte) : State := { run s len cycles with a := v, p := flags s.p v }

/-- A completed LDX of `v`. -/
def ldx (s : State) (len : Nat) (cycles : Int) (v : Byte) : State := { run s len cycles with x := v, p := flags s.p v }

/-- A completed LDY of `v`. -/
def ldy (s : State) (len : Nat) (cycles : Int) (v : Byte) : State := { run s len cycles with y := v, p := flags s.p v }

/-- A completed store of `v` at `ea`. -/
def stored (s : State) (len : Nat) (cycles : Int) (ea : Nat) (v : Byte) : State :=
  { run s len cycles with mem := Memory.write s.mem ea v }

/-- The 16-bit value `h:l` (00_scope R9). -/
def word (l h : Byte) : Nat := h.toNat * 256 + l.toNat

/-- The pointer in the zero page at `p`, its second byte at `(p + 1) mod 256` (41_addressing_modes R111). -/
def pointer (s : State) (p : Nat) : Nat := word (Memory.read s.mem p) (Memory.read s.mem ((p + 1) % 256))

/-- The page-cross cycle: one when the high byte changes (41_addressing_modes R112). -/
def crossing (base sum : Nat) : Int := if base / 256 = sum / 256 then 0 else 1

/-- The instruction took AddressOverflow: mode Faulted with this record, no byte written; the rest of the state is
unspecified (60_exceptions R202, R203, R204). -/
def overflowed (s : State) (mode : IndexedMode) (base : Nat) (index : Byte)
    (o : Host.Outcome State Fault Refusal) : Prop :=
  ∃ t, o = .next t ∧ t.mode = .faulted ∧ t.fault = some (.addressOverflow mode (BitVec.ofNat 16 base) index s.pc) ∧
    t.mem = s.mem

/-- The column "cycles" of 30_encoding R73, without its "(+1)". -/
def baseCycles (f : Form) : Int :=
  match f.mode, f.effect with
  | .immediate, _ => 2
  | .zeroPage, _ => 3
  | .zeroPageX, _ | .zeroPageY, _ | .absolute, _ => 4
  | .absoluteX, .store | .absoluteY, .store => 5
  | .absoluteX, _ | .absoluteY, _ => 4
  | .indirectX, _ => 6
  | .indirectY, .store => 6
  | .indirectY, _ => 5
  | .absoluteTarget, _ => 6

/-- The "(+1)" of 30_encoding R73: loads in the three indexed 16-bit modes, when the page is crossed. -/
def extraCycle (i : Instr) (s : State) : Int :=
  match i with
  | .ldaAbsoluteX base | .ldyAbsoluteX base => crossing base.toNat (base.toNat + s.x.toNat)
  | .ldaAbsoluteY base | .ldxAbsoluteY base => crossing base.toNat (base.toNat + s.y.toNat)
  | .ldaIndirectY z => crossing (pointer s z.toNat) (pointer s z.toNat + s.y.toNat)
  | _ => 0

/-- The status with Z and N of `p` and the five placeholder flags of `q` (10_state R31). -/
def withPlaceholders (p q : Status) : Status := { q with z := p.z, n := p.n }

/-- The table of 30_encoding R73: opcode byte and form. -/
def opcodeTable : List (Byte × Form) :=
  [(0xA9#8, ⟨.load, some .accumulator, .immediate, some .load⟩),
   (0xA5#8, ⟨.load, some .accumulator, .zeroPage, some .load⟩),
   (0xB5#8, ⟨.load, some .accumulator, .zeroPageX, some .load⟩),
   (0xAD#8, ⟨.load, some .accumulator, .absolute, some .load⟩),
   (0xBD#8, ⟨.load, some .accumulator, .absoluteX, some .load⟩),
   (0xB9#8, ⟨.load, some .accumulator, .absoluteY, some .load⟩),
   (0xA1#8, ⟨.load, some .accumulator, .indirectX, some .load⟩),
   (0xB1#8, ⟨.load, some .accumulator, .indirectY, some .load⟩),
   (0xA2#8, ⟨.load, some .registerX, .immediate, some .load⟩),
   (0xA6#8, ⟨.load, some .registerX, .zeroPage, some .load⟩),
   (0xB6#8, ⟨.load, some .registerX, .zeroPageY, some .load⟩),
   (0xAE#8, ⟨.load, some .registerX, .absolute, some .load⟩),
   (0xBE#8, ⟨.load, some .registerX, .absoluteY, some .load⟩),
   (0xA0#8, ⟨.load, some .registerY, .immediate, some .load⟩),
   (0xA4#8, ⟨.load, some .registerY, .zeroPage, some .load⟩),
   (0xB4#8, ⟨.load, some .registerY, .zeroPageX, some .load⟩),
   (0xAC#8, ⟨.load, some .registerY, .absolute, some .load⟩),
   (0xBC#8, ⟨.load, some .registerY, .absoluteX, some .load⟩)] ++
  [(0x85#8, ⟨.store, some .accumulator, .zeroPage, some .store⟩),
   (0x95#8, ⟨.store, some .accumulator, .zeroPageX, some .store⟩),
   (0x8D#8, ⟨.store, some .accumulator, .absolute, some .store⟩),
   (0x9D#8, ⟨.store, some .accumulator, .absoluteX, some .store⟩),
   (0x99#8, ⟨.store, some .accumulator, .absoluteY, some .store⟩),
   (0x81#8, ⟨.store, some .accumulator, .indirectX, some .store⟩),
   (0x91#8, ⟨.store, some .accumulator, .indirectY, some .store⟩),
   (0x86#8, ⟨.store, some .registerX, .zeroPage, some .store⟩),
   (0x96#8, ⟨.store, some .registerX, .zeroPageY, some .store⟩),
   (0x8E#8, ⟨.store, some .registerX, .absolute, some .store⟩),
   (0x84#8, ⟨.store, some .registerY, .zeroPage, some .store⟩),
   (0x94#8, ⟨.store, some .registerY, .zeroPageX, some .store⟩),
   (0x8C#8, ⟨.store, some .registerY, .absolute, some .store⟩)] ++
  [(0x20#8, ⟨.jsr, none, .absoluteTarget, none⟩)]

end Sys2Proof.Expected

/-! ## Loads (42_loads): the next state of every form -/

/-- LDA, LDX, LDY Immediate (R142, R150, R155): the value, Z and N from it, PC + 2, 2 cycles, all else unchanged. -/
def Obligations.LoadImmediateResult : Prop :=
  ∀ (v : Byte) (s : State),
    (decode [0xA9#8, v] = .ok (.ldaImmediate v, []) ∧ exec (.ldaImmediate v) s = .next (Expected.lda s 2 2 v)) ∧
    (decode [0xA2#8, v] = .ok (.ldxImmediate v, []) ∧ exec (.ldxImmediate v) s = .next (Expected.ldx s 2 2 v)) ∧
    (decode [0xA0#8, v] = .ok (.ldyImmediate v, []) ∧ exec (.ldyImmediate v) s = .next (Expected.ldy s 2 2 v))

/-- LDA, LDX, LDY Zero page (R143, R151, R156): the byte at z, 3 cycles. -/
def Obligations.LoadZeroPageResult : Prop :=
  ∀ (z : Byte) (s : State),
    let v := Memory.read s.mem z.toNat
    (decode [0xA5#8, z] = .ok (.ldaZeroPage z, []) ∧ exec (.ldaZeroPage z) s = .next (Expected.lda s 2 3 v)) ∧
    (decode [0xA6#8, z] = .ok (.ldxZeroPage z, []) ∧ exec (.ldxZeroPage z) s = .next (Expected.ldx s 2 3 v)) ∧
    (decode [0xA4#8, z] = .ok (.ldyZeroPage z, []) ∧ exec (.ldyZeroPage z) s = .next (Expected.ldy s 2 3 v))

/-- LDA Zero page,X, LDX Zero page,Y, LDY Zero page,X (R144, R152, R157): the byte at (z + index) mod 256, the index
as it was before the instruction, 4 cycles. -/
def Obligations.LoadZeroPageIndexedResult : Prop :=
  ∀ (z : Byte) (s : State),
    let atX := Memory.read s.mem ((z.toNat + s.x.toNat) % 256)
    let atY := Memory.read s.mem ((z.toNat + s.y.toNat) % 256)
    (decode [0xB5#8, z] = .ok (.ldaZeroPageX z, []) ∧ exec (.ldaZeroPageX z) s = .next (Expected.lda s 2 4 atX)) ∧
    (decode [0xB6#8, z] = .ok (.ldxZeroPageY z, []) ∧ exec (.ldxZeroPageY z) s = .next (Expected.ldx s 2 4 atY)) ∧
    (decode [0xB4#8, z] = .ok (.ldyZeroPageX z, []) ∧ exec (.ldyZeroPageX z) s = .next (Expected.ldy s 2 4 atX))

/-- LDA, LDX, LDY Absolute (R145, R153, R158): the byte at h:l, low byte first in the stream, 4 cycles. -/
def Obligations.LoadAbsoluteResult : Prop :=
  ∀ (l h : Byte) (s : State),
    let a := BitVec.ofNat 16 (Expected.word l h)
    let v := Memory.read s.mem (Expected.word l h)
    (decode [0xAD#8, l, h] = .ok (.ldaAbsolute a, []) ∧ exec (.ldaAbsolute a) s = .next (Expected.lda s 3 4 v)) ∧
    (decode [0xAE#8, l, h] = .ok (.ldxAbsolute a, []) ∧ exec (.ldxAbsolute a) s = .next (Expected.ldx s 3 4 v)) ∧
    (decode [0xAC#8, l, h] = .ok (.ldyAbsolute a, []) ∧ exec (.ldyAbsolute a) s = .next (Expected.ldy s 3 4 v))

/-- LDA Absolute,X, LDA Absolute,Y, LDX Absolute,Y, LDY Absolute,X (R146, R147, R154, R159): where the sum fits 16
bits, the byte there, 4 cycles or 5 when the page is crossed; where it does not, AddressOverflow, whose entry is a next
state in the model (log entries 1, 12). -/
def Obligations.LoadAbsoluteIndexedResult : Prop :=
  ∀ (l h : Byte) (s : State),
    let base := Expected.word l h
    let b := BitVec.ofNat 16 base
    let sx := base + s.x.toNat
    let sy := base + s.y.toNat
    decode [0xBD#8, l, h] = .ok (.ldaAbsoluteX b, []) ∧ decode [0xB9#8, l, h] = .ok (.ldaAbsoluteY b, []) ∧
    decode [0xBE#8, l, h] = .ok (.ldxAbsoluteY b, []) ∧ decode [0xBC#8, l, h] = .ok (.ldyAbsoluteX b, []) ∧
    (sx ≤ 0xFFFF →
      exec (.ldaAbsoluteX b) s = .next (Expected.lda s 3 (4 + Expected.crossing base sx) (Memory.read s.mem sx)) ∧
      exec (.ldyAbsoluteX b) s = .next (Expected.ldy s 3 (4 + Expected.crossing base sx) (Memory.read s.mem sx))) ∧
    (sy ≤ 0xFFFF →
      exec (.ldaAbsoluteY b) s = .next (Expected.lda s 3 (4 + Expected.crossing base sy) (Memory.read s.mem sy)) ∧
      exec (.ldxAbsoluteY b) s = .next (Expected.ldx s 3 (4 + Expected.crossing base sy) (Memory.read s.mem sy))) ∧
    (0xFFFF < sx →
      Expected.overflowed s .absoluteX base s.x (exec (.ldaAbsoluteX b) s) ∧
      Expected.overflowed s .absoluteX base s.x (exec (.ldyAbsoluteX b) s)) ∧
    (0xFFFF < sy →
      Expected.overflowed s .absoluteY base s.y (exec (.ldaAbsoluteY b) s) ∧
      Expected.overflowed s .absoluteY base s.y (exec (.ldxAbsoluteY b) s))

/-- LDA (Indirect,X) (R148): the byte at the pointer in the zero page at (z + X) mod 256, 6 cycles. A pointer at 0x00FF
takes its high byte from 0x0000, the spec's decision D6 (log entry 4). -/
def Obligations.LoadIndirectXResult : Prop :=
  ∀ (z : Byte) (s : State),
    decode [0xA1#8, z] = .ok (.ldaIndirectX z, []) ∧
    exec (.ldaIndirectX z) s =
      .next (Expected.lda s 2 6 (Memory.read s.mem (Expected.pointer s ((z.toNat + s.x.toNat) % 256))))

/-- LDA (Indirect),Y (R149): the byte at the zero-page pointer plus Y, 5 cycles or 6 when the page is crossed; where
the sum does not fit 16 bits, AddressOverflow (log entries 1, 4, 12). -/
def Obligations.LoadIndirectYResult : Prop :=
  ∀ (z : Byte) (s : State),
    let base := Expected.pointer s z.toNat
    let sum := base + s.y.toNat
    decode [0xB1#8, z] = .ok (.ldaIndirectY z, []) ∧
    (sum ≤ 0xFFFF → exec (.ldaIndirectY z) s =
      .next (Expected.lda s 2 (5 + Expected.crossing base sum) (Memory.read s.mem sum))) ∧
    (0xFFFF < sum → Expected.overflowed s .indirectY base s.y (exec (.ldaIndirectY z) s))

/-! ## Stores (43_stores): the next state of every form -/

/-- STA, STX, STY Zero page (R171, R178, R181): the register to z, 3 cycles, no flag. -/
def Obligations.StoreZeroPageResult : Prop :=
  ∀ (z : Byte) (s : State),
    (decode [0x85#8, z] = .ok (.staZeroPage z, []) ∧
      exec (.staZeroPage z) s = .next (Expected.stored s 2 3 z.toNat s.a)) ∧
    (decode [0x86#8, z] = .ok (.stxZeroPage z, []) ∧
      exec (.stxZeroPage z) s = .next (Expected.stored s 2 3 z.toNat s.x)) ∧
    (decode [0x84#8, z] = .ok (.styZeroPage z, []) ∧
      exec (.styZeroPage z) s = .next (Expected.stored s 2 3 z.toNat s.y))

/-- STA Zero page,X, STX Zero page,Y, STY Zero page,X (R172, R179, R182): the register to (z + index) mod 256,
4 cycles, no flag. -/
def Obligations.StoreZeroPageIndexedResult : Prop :=
  ∀ (z : Byte) (s : State),
    let eaX := (z.toNat + s.x.toNat) % 256
    let eaY := (z.toNat + s.y.toNat) % 256
    (decode [0x95#8, z] = .ok (.staZeroPageX z, []) ∧
      exec (.staZeroPageX z) s = .next (Expected.stored s 2 4 eaX s.a)) ∧
    (decode [0x96#8, z] = .ok (.stxZeroPageY z, []) ∧
      exec (.stxZeroPageY z) s = .next (Expected.stored s 2 4 eaY s.x)) ∧
    (decode [0x94#8, z] = .ok (.styZeroPageX z, []) ∧
      exec (.styZeroPageX z) s = .next (Expected.stored s 2 4 eaX s.y))

/-- STA, STX, STY Absolute (R173, R180, R183): the register to h:l, 4 cycles, no flag. -/
def Obligations.StoreAbsoluteResult : Prop :=
  ∀ (l h : Byte) (s : State),
    let ea := Expected.word l h
    let a := BitVec.ofNat 16 ea
    (decode [0x8D#8, l, h] = .ok (.staAbsolute a, []) ∧
      exec (.staAbsolute a) s = .next (Expected.stored s 3 4 ea s.a)) ∧
    (decode [0x8E#8, l, h] = .ok (.stxAbsolute a, []) ∧
      exec (.stxAbsolute a) s = .next (Expected.stored s 3 4 ea s.x)) ∧
    (decode [0x8C#8, l, h] = .ok (.styAbsolute a, []) ∧
      exec (.styAbsolute a) s = .next (Expected.stored s 3 4 ea s.y))

/-- STA Absolute,X and STA Absolute,Y (R174, R175): A to the sum, 5 cycles whether or not the page is crossed; where
the sum does not fit 16 bits, AddressOverflow and no byte written (log entries 1, 12). -/
def Obligations.StoreAbsoluteIndexedResult : Prop :=
  ∀ (l h : Byte) (s : State),
    let base := Expected.word l h
    let b := BitVec.ofNat 16 base
    decode [0x9D#8, l, h] = .ok (.staAbsoluteX b, []) ∧ decode [0x99#8, l, h] = .ok (.staAbsoluteY b, []) ∧
    (base + s.x.toNat ≤ 0xFFFF →
      exec (.staAbsoluteX b) s = .next (Expected.stored s 3 5 (base + s.x.toNat) s.a)) ∧
    (base + s.y.toNat ≤ 0xFFFF →
      exec (.staAbsoluteY b) s = .next (Expected.stored s 3 5 (base + s.y.toNat) s.a)) ∧
    (0xFFFF < base + s.x.toNat → Expected.overflowed s .absoluteX base s.x (exec (.staAbsoluteX b) s)) ∧
    (0xFFFF < base + s.y.toNat → Expected.overflowed s .absoluteY base s.y (exec (.staAbsoluteY b) s))

/-- STA (Indirect,X) (R176): A to the pointer in the zero page at (z + X) mod 256, 6 cycles, no flag. A pointer at
0x00FF takes its high byte from 0x0000, the spec's decision D6 (log entry 4). -/
def Obligations.StoreIndirectXResult : Prop :=
  ∀ (z : Byte) (s : State),
    decode [0x81#8, z] = .ok (.staIndirectX z, []) ∧
    exec (.staIndirectX z) s =
      .next (Expected.stored s 2 6 (Expected.pointer s ((z.toNat + s.x.toNat) % 256)) s.a)

/-- STA (Indirect),Y (R177): A to the zero-page pointer plus Y, 6 cycles whether or not the page is crossed; where the
sum does not fit 16 bits, AddressOverflow and no byte written (log entries 1, 4, 12). -/
def Obligations.StoreIndirectYResult : Prop :=
  ∀ (z : Byte) (s : State),
    let base := Expected.pointer s z.toNat
    decode [0x91#8, z] = .ok (.staIndirectY z, []) ∧
    (base + s.y.toNat ≤ 0xFFFF →
      exec (.staIndirectY z) s = .next (Expected.stored s 2 6 (base + s.y.toNat) s.a)) ∧
    (0xFFFF < base + s.y.toNat → Expected.overflowed s .indirectY base s.y (exec (.staIndirectY z) s))

/-! ## JSR (44_jsr) -/

/-- JSR (R190), at the spec's decisions D2 and D8 (log entries 3, 5): the return address a + 2 goes to the
stack page, high byte at 0x0100 + SP, low byte at 0x0100 + (SP - 1) mod 256, SP down by 2, PC the target, 6 cycles,
no flag; it never faults. -/
def Obligations.JsrResult : Prop :=
  ∀ (l h : Byte) (s : State),
    let target := BitVec.ofNat 16 (Expected.word l h)
    let ret := (s.pc.toNat + 2) % 65536
    decode [0x20#8, l, h] = .ok (.jsr target, []) ∧
    exec (.jsr target) s = .next { Expected.run s 3 6 with
      pc := target
      sp := BitVec.ofNat 8 (s.sp.toNat + 254)
      mem := Memory.write
        (Memory.write s.mem (0x0100 + s.sp.toNat) (BitVec.ofNat 8 (ret / 256)))
        (0x0100 + (s.sp.toNat + 255) % 256) (BitVec.ofNat 8 (ret % 256)) }

/-- JSR at the other value of `JSR_RETURN_DISCIPLINE` (R191), which is not what the machine's JSR runs: the return
address goes into the target itself, low byte first, SP untouched, 6 cycles; the next fetch at the target reads the
return address's low byte. -/
def Obligations.JsrTargetOverwriteResult : Prop :=
  ∀ (target : Addr) (s : State),
    let ret := (s.pc.toNat + 2) % 65536
    let t := { Expected.run s 3 6 with
      pc := target
      mem := Memory.write
        (Memory.write s.mem target.toNat (BitVec.ofNat 8 (ret % 256)))
        ((target.toNat + 1) % 65536) (BitVec.ofNat 8 (ret / 256)) }
    jsrWith .targetOverwrite target s = .next t ∧
    (Memory.wf s.mem = true → t.fetchByte.1 = BitVec.ofNat 8 (ret % 256))

/-! ## Frames and outcomes over all instructions -/

/-- A load that completes writes R[sel], PC, Z, N and the counter alone (42_loads R141, 10_state R37). -/
def Obligations.LoadFrame : Prop :=
  ∀ (i : Instr) (s t : State), i.form.effect = .load → exec i s = .next t → t.mode ≠ .faulted →
    t.sp = s.sp ∧ (∀ sel, i.form.sel ≠ some sel → t.reg sel = s.reg sel) ∧
    (t.p.c = s.p.c ∧ t.p.i = s.p.i ∧ t.p.d = s.p.d ∧ t.p.b = s.p.b ∧ t.p.v = s.p.v) ∧
    (∀ a, Memory.read t.mem a = Memory.read s.mem a) ∧
    t.requested = s.requested ∧ t.inCall = s.inCall ∧ t.fault = s.fault ∧ t.draws = s.draws

/-- A store that completes writes PC, the counter and the one byte it locates; that byte holds R[sel] and every other
byte is as it was (43_stores R170). -/
def Obligations.StoreFrame : Prop :=
  ∀ (i : Instr) (s t : State), Memory.wf s.mem = true → i.form.effect = .store → exec i s = .next t →
    t.mode ≠ .faulted →
    t.a = s.a ∧ t.x = s.x ∧ t.y = s.y ∧ t.sp = s.sp ∧ t.p = s.p ∧
    t.requested = s.requested ∧ t.inCall = s.inCall ∧ t.fault = s.fault ∧ t.draws = s.draws ∧
    (∀ ea sel, located i s = some (.addr ea) → i.form.sel = some sel → Memory.read t.mem ea.toNat = s.reg sel) ∧
    (∀ ea, located i s = some (.addr ea) → ∀ a, a ≠ ea.toNat → Memory.read t.mem a = Memory.read s.mem a)

/-- JSR writes PC, SP, the counter and two bytes of the stack page; every register, flag and other byte is as it was
(44_jsr R190, 10_state R37). -/
def Obligations.JsrFrame : Prop :=
  ∀ (target : Addr) (s t : State), Memory.wf s.mem = true → exec (.jsr target) s = .next t →
    t.a = s.a ∧ t.x = s.x ∧ t.y = s.y ∧ t.p = s.p ∧
    t.requested = s.requested ∧ t.inCall = s.inCall ∧ t.fault = s.fault ∧ t.draws = s.draws ∧
    (∀ a, a ≠ 0x0100 + s.sp.toNat → a ≠ 0x0100 + (s.sp.toNat + 255) % 256 →
      Memory.read t.mem a = Memory.read s.mem a)

/-- Whatever an instruction does, a faulting one included, only the bytes it writes change: the located byte of a
store, the two stack bytes of JSR, none for a load (20_memory R59, 60_exceptions R204; log entry 1 for memory after
AddressOverflow). -/
def Obligations.OnlyWrittenBytesChange : Prop :=
  ∀ (i : Instr) (s t : State) (a : Nat), Memory.wf s.mem = true → exec i s = .next t → a ∉ writtenAddrs i s →
    Memory.read t.mem a = Memory.read s.mem a

/-- The flag table of 42_loads R160 for every load that completes, with Z and N never both set (R140); and no store or
JSR that completes changes a flag (10_state R28, 43_stores R170, 44_jsr R190). -/
def Obligations.FlagOutcomes : Prop :=
  ∀ (i : Instr) (s t : State), exec i s = .next t → t.mode ≠ .faulted →
    (∀ sel, i.form.effect = .load → i.form.sel = some sel →
      ((t.reg sel).toNat = 0 → t.p.z = true ∧ t.p.n = false) ∧
      (1 ≤ (t.reg sel).toNat ∧ (t.reg sel).toNat ≤ 0x7F → t.p.z = false ∧ t.p.n = false) ∧
      (0x80 ≤ (t.reg sel).toNat → t.p.z = false ∧ t.p.n = true)) ∧
    (i.form.effect ≠ .load → t.p.z = s.p.z ∧ t.p.n = s.p.n) ∧
    (t.p.c = s.p.c ∧ t.p.i = s.p.i ∧ t.p.d = s.p.d ∧ t.p.b = s.p.b ∧ t.p.v = s.p.v)

/-- PC after an instruction that completes: past its bytes, modulo 65536, or JSR's target (40 R99). -/
def Obligations.PcAfterInstruction : Prop :=
  ∀ (i : Instr) (s t : State), exec i s = .next t → t.mode ≠ .faulted →
    (i.form.effect ≠ .jsr → t.pc.toNat = (s.pc.toNat + i.length) % 65536) ∧
    (∀ target, i = .jsr target → t.pc = target)

/-- The cycles of an instruction that completes: the column of 30_encoding R73 (40 R100). -/
def Obligations.CyclesOfInstruction : Prop :=
  ∀ (i : Instr) (s t : State), exec i s = .next t → t.mode ≠ .faulted →
    s.remaining - t.remaining = Expected.baseCycles i.form + Expected.extraCycle i s

/-- Every instruction answers a next state. It completes exactly when its indexed sum fits 16 bits; otherwise it takes
AddressOverflow with what it located and its own address in the record, and has written no byte (41_addressing_modes
R114, 60_exceptions R202 to R204; the entry as a next state is log entry 12, memory as it was log entry 1). -/
def Obligations.OverflowExactlyWhenSumExceeds : Prop :=
  ∀ (i : Instr) (s : State), ∃ t, exec i s = .next t ∧ (SumFits i s → t.mode = .idle) ∧
    (¬ SumFits i s → t.mode = .faulted ∧ t.mem = s.mem ∧
      ∃ mode base index, located i s = some (.overflow mode base index) ∧
        t.fault = some (.addressOverflow mode base index s.pc))

/-- A store to the byte the next fetch reads is seen by that fetch (20_memory R62). -/
def Obligations.StoredByteIsFetched : Prop :=
  ∀ (i : Instr) (s t : State) (sel : Sel), Memory.wf s.mem = true → i.form.effect = .store → i.form.sel = some sel →
    exec i s = .next t → t.mode ≠ .faulted → located i s = some (.addr t.pc) → t.fetchByte.1 = s.reg sel

/-! ## Decoding (30_encoding) -/

/-- Decoding the bytes of any instruction gives it back, whatever follows them (R70 to R73). -/
def Obligations.DecodeOfEncode : Prop :=
  ∀ (i : Instr) (rest : List Byte), decode (encode i ++ rest) = .ok (i, rest)

/-- The decoder accepts nothing but the bytes of an instruction: no bit it reads is dropped (R70 to R74). -/
def Obligations.DecodeAcceptsOnlyEncodings : Prop :=
  ∀ (bytes : List Byte) (i : Instr) (rest : List Byte), decode bytes = .ok (i, rest) → bytes = encode i ++ rest

/-- The form, and so the length, is read from the opcode byte alone (R74, R76, R78). -/
def Obligations.FormReadFromOpcodeAlone : Prop :=
  ∀ (op b1 b2 : Byte), (instrOf op b1 b2).map Instr.form = decodeOpcode op

/-- The legal opcodes are the 32 rows of R73 with their forms, and 224 bytes are illegal (R74, R75, R77). -/
def Obligations.LegalOpcodesAreTheTable : Prop :=
  (∀ (op : Byte) (f : Form), decodeOpcode op = some f ↔ (op, f) ∈ Expected.opcodeTable) ∧
  ((List.range 256).filter fun n => (decodeOpcode (BitVec.ofNat 8 n)).isNone).length = 224

/-- A form is well-formed exactly when some opcode byte has it (R73, R75). -/
def Obligations.WellFormedFormsAreDecoded : Prop :=
  ∀ f : Form, f.wellFormed = true ↔ ∃ op, decodeOpcode op = some f

/-- The example bytes of R80's table (the forms' bytes, not the notation). -/
def Obligations.ExampleBytesDecode : Prop :=
  decode [0xA9#8, 0x84#8] = .ok (.ldaImmediate 0x84#8, []) ∧
  decode [0xA5#8, 0x10#8] = .ok (.ldaZeroPage 0x10#8, []) ∧
  decode [0xB6#8, 0x10#8] = .ok (.ldxZeroPageY 0x10#8, []) ∧
  decode [0x8D#8, 0x34#8, 0x12#8] = .ok (.staAbsolute 0x1234#16, []) ∧
  decode [0xBD#8, 0xF0#8, 0x12#8] = .ok (.ldaAbsoluteX 0x12F0#16, []) ∧
  decode [0x81#8, 0x20#8] = .ok (.staIndirectX 0x20#8, []) ∧
  decode [0xB1#8, 0x40#8] = .ok (.ldaIndirectY 0x40#8, []) ∧
  decode [0x20#8, 0x00#8, 0x80#8] = .ok (.jsr 0x8000#16, []) ∧
  decode [0xAD#8, 0x10#8, 0x00#8] = .ok (.ldaAbsolute 0x0010#16, [])

/-! ## Memory, pointers, status -/

/-- A byte read is the last byte written there; a write changes no other byte and nothing but memory (20_memory R51,
R52, R60). -/
def Obligations.MemoryReadAfterWrite : Prop :=
  ∀ (s : State) (a b : Addr) (v : Byte), Memory.wf s.mem = true →
    (s.memWrite a v).memRead b = (if b = a then v else s.memRead b) ∧
    { s.memWrite a v with mem := s.mem } = s

/-- Memory has one form: two canonical memories that read the same everywhere are equal (the model's, over 10_state
R34; log entry 17). -/
def Obligations.MemoryFormIsCanonical : Prop :=
  ∀ m m' : Memory, Memory.wf m = true → Memory.wf m' = true → (∀ a, Memory.read m a = Memory.read m' a) → m = m'

/-- `FetchByte` (40 R92): the byte at PC, PC up by one modulo 65536, one cycle, nothing else. -/
def Obligations.FetchByteResult : Prop :=
  ∀ s : State, s.fetchByte =
    (Memory.read s.mem s.pc.toNat, { s with pc := BitVec.ofNat 16 (s.pc.toNat + 1), remaining := s.remaining - 1 })

/-- `ReadPtrZP(p)` (41_addressing_modes R111) at both values of `ZP_POINTER_WRAP`: low byte first, two cycles, the high
byte at (p + 1) mod 256 or, without the wrap, at p + 1; the machine runs it with the wrap (log entry 4). -/
def Obligations.ZeroPagePointerRead : Prop :=
  ∀ (s : State) (p : Byte),
    s.readPtrZPWith true p =
      (BitVec.ofNat 16 (Expected.word (Memory.read s.mem p.toNat) (Memory.read s.mem ((p.toNat + 1) % 256))),
        { s with remaining := s.remaining - 2 }) ∧
    s.readPtrZPWith false p =
      (BitVec.ofNat 16 (Expected.word (Memory.read s.mem p.toNat) (Memory.read s.mem (p.toNat + 1))),
        { s with remaining := s.remaining - 2 }) ∧
    s.readPtrZP p = s.readPtrZPWith true p

/-- The page-cross test says that the high bytes differ (41_addressing_modes R112). -/
def Obligations.PageCrossIsHighByteChange : Prop :=
  ∀ base ea : Addr, pageCross base ea = true ↔ base.toNat / 256 ≠ ea.toNat / 256

/-- The packed status (10_state R32, the spec's decision D9, log entry 8): each flag at its bit, bit 5 reading 0;
unpacking it gives the flags back. -/
def Obligations.PackedStatusLayout : Prop :=
  ∀ p : Status,
    p.pack.getLsbD 7 = p.n ∧ p.pack.getLsbD 6 = p.v ∧ p.pack.getLsbD 5 = false ∧ p.pack.getLsbD 4 = p.b ∧
    p.pack.getLsbD 3 = p.d ∧ p.pack.getLsbD 2 = p.i ∧ p.pack.getLsbD 1 = p.z ∧ p.pack.getLsbD 0 = p.c ∧
    Status.unpack p.pack = p

/-! ## Reset and the host (70_reset) -/

/-- The state after reset, as far as 10_state R36 gives it: PC the address 0xFFFC, every register and flag zero, every
byte 0x00, mode Idle with no call in progress, no fault. -/
def Obligations.ResetValues : Prop :=
  State.reset.pc = 0xFFFC#16 ∧ State.reset.sp = 0#8 ∧ State.reset.a = 0#8 ∧ State.reset.x = 0#8 ∧
  State.reset.y = 0#8 ∧
  (State.reset.p.c = false ∧ State.reset.p.z = false ∧ State.reset.p.i = false ∧ State.reset.p.d = false ∧
    State.reset.p.b = false ∧ State.reset.p.v = false ∧ State.reset.p.n = false) ∧
  (∀ a, Memory.read State.reset.mem a = 0#8) ∧ State.reset.mode = .idle ∧
  State.reset.callInProgress = false ∧ State.reset.fault = none

/-- The two resets between calls (70_reset R220, 95_test_vectors V70, V71; log entry 14): CPU reset sets every
register and flag and leaves memory; memory reset zeroes every byte and leaves the registers. -/
def Obligations.ResetsBetweenCalls : Prop :=
  ∀ s : State, s.callInProgress = false →
    (∃ t, hostAct .cpuReset s = .next t ∧ t.pc = 0xFFFC#16 ∧ t.sp = 0#8 ∧ t.a = 0#8 ∧ t.x = 0#8 ∧ t.y = 0#8 ∧
      (t.p.c = false ∧ t.p.z = false ∧ t.p.i = false ∧ t.p.d = false ∧ t.p.b = false ∧ t.p.v = false ∧
        t.p.n = false) ∧ t.mem = s.mem) ∧
    (∃ t, hostAct .memoryReset s = .next t ∧ (∀ a, Memory.read t.mem a = 0#8) ∧ { t with mem := s.mem } = s)

/-- The host acts between calls and never during one (70_reset R227; the field that says which is log entry 14). -/
def Obligations.HostActsOnlyBetweenCalls : Prop :=
  ∀ (act : HostAction) (s : State),
    (s.callInProgress = true → hostAct act s = .refused .hostDuringCall) ∧
    (s.callInProgress = false → ∃ t, hostAct act s = .next t)

/-- The entry of `execute(requested)` (40 R90, R103): a call in progress, a fresh counter, mode Idle, no fault; PC,
SP, A, X, Y, P and memory carried over (the spec's decisions D10, D18). -/
def Obligations.CallEntry : Prop :=
  ∀ (s : State) (n : Int), s.callInProgress = false → ∃ t, hostAct (.execute n) s = .next t ∧
    t.callInProgress = true ∧ t.remaining = n ∧ t.requested = n ∧ t.mode = .idle ∧ t.fault = none ∧
    t.pc = s.pc ∧ t.sp = s.sp ∧ t.a = s.a ∧ t.x = s.x ∧ t.y = s.y ∧ t.p = s.p ∧ t.mem = s.mem

/-- A call is in progress from its entry until it has ended Done or Faulted, its last boundary included, and all that
time the host can do nothing (00_scope R7, 70_reset R227, 40 R101; that a fault entry is a state of its own is log
entry 12, the field that says a call is in progress log entry 14). -/
def Obligations.CallLastsUntilItEnds : Prop :=
  ∀ (s : State) (n : Int) (k : Nat),
    let t := (s.startCall n).runCall k
    (t.callInProgress = true ↔ ¬ t.CallEnded) ∧
    (¬ t.CallEnded → ∀ act, hostAct act t = .refused .hostDuringCall)

/-- With no call in progress the engine changes nothing (00_scope R7; what a step answers there is log entry 9). -/
def Obligations.EngineIdleOutsideCalls : Prop :=
  ∀ s t : State, s.callInProgress = false → step s = .next t → t = s

/-! ## The step (40) -/

/-- At a boundary of a call with budget left, bytes at PC that decode are run: the step is exactly `exec` of the
instruction on the state at its opcode, and the instruction is well-formed (40 R94, R95). -/
def Obligations.StepRunsDecodedInstruction : Prop :=
  ∀ (s : State) (i : Instr) (rest : List Byte), s.mode = .idle → s.inCall = true → 0 < s.remaining →
    decode s.fetchBytes = .ok (i, rest) →
    step s = exec i s ∧ i.wellFormed = true ∧
    s.fetchBytes = [Memory.read s.mem s.pc.toNat, Memory.read s.mem ((s.pc.toNat + 1) % 65536),
      Memory.read s.mem ((s.pc.toNat + 2) % 65536)]

/-- The budget is tested before anything is fetched: with none left the call ends Done, whatever byte is at PC, nothing
else changes, and the result is the cycles used; otherwise one instruction is started, and the call is not Done
(40 R93; that a fault entry is a next state is log entry 12). -/
def Obligations.BudgetTestedBeforeFetch : Prop :=
  ∀ s : State, s.mode = .idle → s.inCall = true →
    (s.remaining ≤ 0 → step s = .next { s with mode := .done, inCall := false } ∧
      State.result { s with mode := .done, inCall := false } = some (.ok (s.requested - s.remaining))) ∧
    (0 < s.remaining → ∃ t, step s = .next t ∧ (t.mode = .idle ∨ t.mode = .faulted))

/-- An illegal opcode at PC raises UnsupportedOpcode with the opcode and its own address, PC one past it, one cycle
charged, the call over, nothing else changed; no legal opcode raises it (60_exceptions R201, R204, the spec's decision
D11, log entry 16; the entry as a next state is log entry 12). -/
def Obligations.IllegalOpcodeFaults : Prop :=
  ∀ s : State, s.mode = .idle → s.inCall = true → 0 < s.remaining → s.fault = none →
    let op := Memory.read s.mem s.pc.toNat
    (decodeOpcode op = none → step s = .next { s with
      pc := BitVec.ofNat 16 (s.pc.toNat + 1), remaining := s.remaining - 1, mode := .faulted, inCall := false,
      fault := some (.unsupportedOpcode op s.pc) }) ∧
    (decodeOpcode op ≠ none → ∀ t, step s = .next t → ∀ op' a, t.fault ≠ some (.unsupportedOpcode op' a))

/-- From a faulted state the machine goes no further: the call returned the record and no cycle count (60_exceptions
R204; reporting it one step after the entry is log entry 12). -/
def Obligations.FaultEndsTheCall : Prop :=
  ∀ (s : State) (r : FaultRecord), s.mode = .faulted → s.fault = some r →
    step s = .fault (.engineFault r) ∧ s.result = some (.err r)

/-- Machine and pseudocode agree: one step at a boundary is one pass through the loop of 40 R102 as the spec writes
it, fetching byte by byte and dispatching on the form. Where the loop raises a fault, both take the model's own entry:
a next state (log entry 12), with free values and memory kept after AddressOverflow (log entry 1). -/
def Obligations.StepMatchesPseudocode : Prop :=
  ∀ s : State, s.mode = .idle → s.inCall = true → step s = .next (Pseudocode.loopBody s)

/-! ## Invariants and whole-machine rules -/

/-- Both invariants hold after reset (10_state R36). That the counter's invariant holds there rests on the model's reset
value 0 of `requested` and `remaining`, to which R36 gives none (log entry 2). -/
def Obligations.ResetHasInvariants : Prop := State.reset.Inv ∧ State.reset.BudgetInv

/-- Every step keeps the invariant: canonical memory, mode Executing never observable, a record exactly in mode Faulted
(the entry as a next state is log entry 12, memory kept after AddressOverflow log entry 1), a call in progress only in
mode Idle (log entry 14) (10_state R34, R35, R38, 40 R96, R101). -/
def Obligations.StepKeepsInvariant : Prop :=
  ∀ s t : State, s.Inv → step s = .next t → t.Inv

/-- Every step keeps the invariant of the cycle counter (40 R93, R98). -/
def Obligations.StepKeepsBudgetInvariant : Prop :=
  ∀ s t : State, s.BudgetInv → step s = .next t → t.BudgetInv

/-- What the host does between calls keeps both invariants (70_reset R220, R227; 40 R90). For CPU reset this reads the
engine control that the model leaves, where R220 names the register file alone (log entry 14), with `requested` and
`remaining` 0 (log entry 2). -/
def Obligations.HostKeepsInvariants : Prop :=
  ∀ (act : HostAction) (s t : State), s.Inv → s.BudgetInv → hostAct act s = .next t → t.Inv ∧ t.BudgetInv

/-- No step that draws no free value (no AddressOverflow) changes C, I, D, B or V (10_state R31). -/
def Obligations.PlaceholderFlagsKept : Prop :=
  ∀ s t : State, step s = .next t → t.draws = s.draws →
    t.p.c = s.p.c ∧ t.p.i = s.p.i ∧ t.p.d = s.p.d ∧ t.p.b = s.p.b ∧ t.p.v = s.p.v

/-- C, I, D, B and V change no result: with other values of them the same step gives the same state, those flags apart
(10_state R31). A step that draws a free value (AddressOverflow) leaves an unspecified status and is left out. -/
def Obligations.PlaceholderFlagsChangeNoResult : Prop :=
  ∀ (s t : State) (q : Status), step s = .next t → t.draws = s.draws →
    step { s with p := Expected.withPlaceholders s.p q } = .next { t with p := Expected.withPlaceholders t.p q }

/-- Only JSR moves SP, and by 2 modulo 256 (10_state R22); a step that draws a free value
(AddressOverflow, log entry 1) is left out. -/
def Obligations.OnlyJsrMovesStackPointer : Prop :=
  ∀ s t : State, step s = .next t → t.draws = s.draws → t.sp ≠ s.sp →
    s.memRead s.pc = 0x20#8 ∧ t.sp.toNat = (s.sp.toNat + 254) % 256

/-- Only a store or JSR changes memory (20_memory R59, 60_exceptions R204). For an instruction that takes
AddressOverflow this rests on memory being kept there (log entry 1). -/
def Obligations.OnlyStoresAndJsrWriteMemory : Prop :=
  ∀ s t : State, step s = .next t → t.mem ≠ s.mem →
    ∃ f, decodeOpcode (s.memRead s.pc) = some f ∧ (f.effect = .store ∨ f.effect = .jsr)

/-- Termination: a call for n cycles ends within ceil(n / 2) instructions and the step that finds no budget left, so
`execute` always ends (40 R101, R102; a fault entry counts as an end, log entry 12). -/
def Obligations.ExecuteEnds : Prop :=
  ∀ (s : State) (n : Int),
    (∀ k : Nat, n ≤ 2 * k → ((s.startCall n).runCall (k + 1)).CallEnded) ∧ (s.execute n).CallEnded

/-- What a call that ends Done returns: 0 with nothing changed for a budget of 0 or less; otherwise at least the budget
and at most 5 cycles more (40 R97, R98). -/
def Obligations.CyclesUsedBounds : Prop :=
  ∀ (s : State) (n : Int),
    (n ≤ 0 → (s.execute n).result = some (.ok 0) ∧ (s.execute n).snapshot = s.snapshot ∧
      (s.execute n).mem = s.mem) ∧
    (0 < n → (s.execute n).mode = .done → ∃ used, (s.execute n).result = some (.ok used) ∧ n ≤ used ∧ used ≤ n + 5)
end

