-- ==== Sys2Proof/Laws/Memory.lean ====
section
/-! SUPPORT. The laws of memory: every operation keeps the canonical form, and what a read gives after a write. -/

namespace Sys2Proof.Machine

@[simp] theorem Memory.read_nil (a : Nat) : Memory.read [] a = 0#8 := rfl

theorem Memory.wf_nil : Memory.wf [] = true := rfl

/-- The canonical form from `lo` on is one from any lower address on. -/
theorem Memory.wfFrom_weaken {lo lo' : Nat} (h : lo' ≤ lo) {m : Memory} (hm : Memory.wfFrom lo m = true) :
    Memory.wfFrom lo' m = true := by
  cases m with
  | nil => rfl
  | cons c rest =>
    obtain ⟨k, v⟩ := c
    simp only [Memory.wfFrom, Bool.and_eq_true, decide_eq_true_eq] at hm ⊢
    exact ⟨⟨⟨by omega, hm.1.1.2⟩, hm.1.2⟩, hm.2⟩

/-- Below its first address a canonical memory reads as unlisted. -/
theorem Memory.read_below {lo a : Nat} (h : a < lo) {m : Memory} (hm : Memory.wfFrom lo m = true) :
    Memory.read m a = 0#8 := by
  cases m with
  | nil => rfl
  | cons c rest =>
    obtain ⟨k, v⟩ := c
    simp only [Memory.wfFrom, Bool.and_eq_true, decide_eq_true_eq] at hm
    simp only [Memory.read, Memory.unlisted]
    rw [if_neg (by omega), if_pos (by omega)]

/-- A cell before a canonical rest: what the list reads. -/
theorem Memory.read_cell_append {a b : Nat} {v : Byte} {m : Memory} (hm : Memory.wfFrom (a + 1) m = true) :
    Memory.read (Memory.cell a v ++ m) b = if b = a then v else Memory.read m b := by
  unfold Memory.cell
  split
  · next hv =>
    split
    · next hb => subst hb; rw [List.nil_append, Memory.read_below (Nat.lt_succ_self b) hm, hv]; rfl
    · rfl
  · simp only [List.cons_append, List.nil_append, Memory.read]
    split
    · rfl
    · split
      · exact (Memory.read_below (by omega) hm).symm
      · rfl

/-- A cell before a canonical rest is canonical. -/
theorem Memory.wfFrom_cell_append {lo a : Nat} {v : Byte} {m : Memory} (hlo : lo ≤ a) (ha : a < 65536)
    (hm : Memory.wfFrom (a + 1) m = true) : Memory.wfFrom lo (Memory.cell a v ++ m) = true := by
  unfold Memory.cell
  split
  · exact Memory.wfFrom_weaken (by omega) hm
  · next hv => simp [Memory.wfFrom, hlo, ha, hm, hv]

/-- Writing inside the address space keeps the canonical form. -/
theorem Memory.wfFrom_write {lo a : Nat} {v : Byte} {m : Memory} (hlo : lo ≤ a) (ha : a < 65536)
    (hm : Memory.wfFrom lo m = true) : Memory.wfFrom lo (Memory.write m a v) = true := by
  induction m generalizing lo with
  | nil => simpa [Memory.write] using Memory.wfFrom_cell_append (v := v) (m := []) hlo ha rfl
  | cons c rest ih =>
    obtain ⟨k, w⟩ := c
    have h := hm
    simp only [Memory.wfFrom, Bool.and_eq_true, decide_eq_true_eq] at h
    simp only [Memory.write]
    split
    · next hk => subst hk; exact Memory.wfFrom_cell_append hlo ha h.2
    · split
      · refine Memory.wfFrom_cell_append hlo ha ?_
        simp only [Memory.wfFrom, Bool.and_eq_true, decide_eq_true_eq]
        exact ⟨⟨⟨by omega, h.1.1.2⟩, h.1.2⟩, h.2⟩
      · simp only [Memory.wfFrom, Bool.and_eq_true, decide_eq_true_eq]
        exact ⟨h.1, ih (by omega) h.2⟩

/-- Every write of the machine keeps memory canonical: its address is a 16-bit one. -/
theorem Memory.wf_write {m : Memory} (hm : Memory.wf m = true) (ea : Addr) (v : Byte) :
    Memory.wf (Memory.write m ea.toNat v) = true :=
  Memory.wfFrom_write (Nat.zero_le _) ea.isLt hm

/-- What a canonical memory reads after a write: the value at the address written, the old byte elsewhere. -/
theorem Memory.read_write_from {lo a : Nat} {v : Byte} {m : Memory} (hm : Memory.wfFrom lo m = true) (b : Nat) :
    Memory.read (Memory.write m a v) b = if b = a then v else Memory.read m b := by
  induction m generalizing lo with
  | nil => simpa [Memory.write] using Memory.read_cell_append (a := a) (b := b) (v := v) (m := []) rfl
  | cons c rest ih =>
    obtain ⟨k, w⟩ := c
    have h := hm
    simp only [Memory.wfFrom, Bool.and_eq_true, decide_eq_true_eq] at h
    simp only [Memory.write]
    split
    · next hk =>
      subst hk
      rw [Memory.read_cell_append h.2]
      split
      · rfl
      · simp only [Memory.read]
        split
        · contradiction
        · split
          · exact Memory.read_below (by omega) h.2
          · rfl
    · split
      · refine Memory.read_cell_append ?_
        simp only [Memory.wfFrom, Bool.and_eq_true, decide_eq_true_eq]
        exact ⟨⟨⟨by omega, h.1.1.2⟩, h.1.2⟩, h.2⟩
      · simp only [Memory.read, ih h.2]
        split
        · next h1 => rw [if_neg (by omega)]
        · split
          · rw [if_neg (by omega)]
          · rfl

theorem Memory.read_write {m : Memory} (hm : Memory.wf m = true) (a b : Nat) (v : Byte) :
    Memory.read (Memory.write m a v) b = if b = a then v else Memory.read m b :=
  Memory.read_write_from hm b

end Sys2Proof.Machine
end

