-- ==== Sys2Proof/Laws/State.lean ====
section
/-! SUPPORT. What each update of the state leaves in each field: one lemma per field and update, so that no proof
unfolds a record update. -/

namespace Sys2Proof.Machine

@[simp] theorem State.charge_pc (s : State) (n : Int) : (s.charge n).pc = s.pc := rfl
@[simp] theorem State.charge_sp (s : State) (n : Int) : (s.charge n).sp = s.sp := rfl
@[simp] theorem State.charge_a (s : State) (n : Int) : (s.charge n).a = s.a := rfl
@[simp] theorem State.charge_x (s : State) (n : Int) : (s.charge n).x = s.x := rfl
@[simp] theorem State.charge_y (s : State) (n : Int) : (s.charge n).y = s.y := rfl
@[simp] theorem State.charge_p (s : State) (n : Int) : (s.charge n).p = s.p := rfl
@[simp] theorem State.charge_mem (s : State) (n : Int) : (s.charge n).mem = s.mem := rfl
@[simp] theorem State.charge_mode (s : State) (n : Int) : (s.charge n).mode = s.mode := rfl
@[simp] theorem State.charge_inCall (s : State) (n : Int) : (s.charge n).inCall = s.inCall := rfl
@[simp] theorem State.charge_requested (s : State) (n : Int) : (s.charge n).requested = s.requested := rfl
@[simp] theorem State.charge_remaining (s : State) (n : Int) : (s.charge n).remaining = s.remaining - n := rfl
@[simp] theorem State.charge_fault (s : State) (n : Int) : (s.charge n).fault = s.fault := rfl
@[simp] theorem State.charge_draws (s : State) (n : Int) : (s.charge n).draws = s.draws := rfl

@[simp] theorem State.memWrite_pc (s : State) (ea : Addr) (v : Byte) : (s.memWrite ea v).pc = s.pc := rfl
@[simp] theorem State.memWrite_sp (s : State) (ea : Addr) (v : Byte) : (s.memWrite ea v).sp = s.sp := rfl
@[simp] theorem State.memWrite_a (s : State) (ea : Addr) (v : Byte) : (s.memWrite ea v).a = s.a := rfl
@[simp] theorem State.memWrite_x (s : State) (ea : Addr) (v : Byte) : (s.memWrite ea v).x = s.x := rfl
@[simp] theorem State.memWrite_y (s : State) (ea : Addr) (v : Byte) : (s.memWrite ea v).y = s.y := rfl
@[simp] theorem State.memWrite_p (s : State) (ea : Addr) (v : Byte) : (s.memWrite ea v).p = s.p := rfl
@[simp] theorem State.memWrite_mem (s : State) (ea : Addr) (v : Byte) : (s.memWrite ea v).mem = Memory.write s.mem ea.toNat v := rfl
@[simp] theorem State.memWrite_mode (s : State) (ea : Addr) (v : Byte) : (s.memWrite ea v).mode = s.mode := rfl
@[simp] theorem State.memWrite_inCall (s : State) (ea : Addr) (v : Byte) : (s.memWrite ea v).inCall = s.inCall := rfl
@[simp] theorem State.memWrite_requested (s : State) (ea : Addr) (v : Byte) : (s.memWrite ea v).requested = s.requested := rfl
@[simp] theorem State.memWrite_remaining (s : State) (ea : Addr) (v : Byte) : (s.memWrite ea v).remaining = s.remaining := rfl
@[simp] theorem State.memWrite_fault (s : State) (ea : Addr) (v : Byte) : (s.memWrite ea v).fault = s.fault := rfl
@[simp] theorem State.memWrite_draws (s : State) (ea : Addr) (v : Byte) : (s.memWrite ea v).draws = s.draws := rfl

@[simp] theorem State.updZN_pc (s : State) (v : Byte) : (s.updZN v).pc = s.pc := rfl
@[simp] theorem State.updZN_sp (s : State) (v : Byte) : (s.updZN v).sp = s.sp := rfl
@[simp] theorem State.updZN_a (s : State) (v : Byte) : (s.updZN v).a = s.a := rfl
@[simp] theorem State.updZN_x (s : State) (v : Byte) : (s.updZN v).x = s.x := rfl
@[simp] theorem State.updZN_y (s : State) (v : Byte) : (s.updZN v).y = s.y := rfl
@[simp] theorem State.updZN_p (s : State) (v : Byte) : (s.updZN v).p = s.p.updZN v := rfl
@[simp] theorem State.updZN_mem (s : State) (v : Byte) : (s.updZN v).mem = s.mem := rfl
@[simp] theorem State.updZN_mode (s : State) (v : Byte) : (s.updZN v).mode = s.mode := rfl
@[simp] theorem State.updZN_inCall (s : State) (v : Byte) : (s.updZN v).inCall = s.inCall := rfl
@[simp] theorem State.updZN_requested (s : State) (v : Byte) : (s.updZN v).requested = s.requested := rfl
@[simp] theorem State.updZN_remaining (s : State) (v : Byte) : (s.updZN v).remaining = s.remaining := rfl
@[simp] theorem State.updZN_fault (s : State) (v : Byte) : (s.updZN v).fault = s.fault := rfl
@[simp] theorem State.updZN_draws (s : State) (v : Byte) : (s.updZN v).draws = s.draws := rfl

@[simp] theorem State.complete_pc (s : State) : (s.complete).pc = s.pc := rfl
@[simp] theorem State.complete_sp (s : State) : (s.complete).sp = s.sp := rfl
@[simp] theorem State.complete_a (s : State) : (s.complete).a = s.a := rfl
@[simp] theorem State.complete_x (s : State) : (s.complete).x = s.x := rfl
@[simp] theorem State.complete_y (s : State) : (s.complete).y = s.y := rfl
@[simp] theorem State.complete_p (s : State) : (s.complete).p = s.p := rfl
@[simp] theorem State.complete_mem (s : State) : (s.complete).mem = s.mem := rfl
@[simp] theorem State.complete_mode (s : State) : (s.complete).mode = .idle := rfl
@[simp] theorem State.complete_inCall (s : State) : (s.complete).inCall = s.inCall := rfl
@[simp] theorem State.complete_requested (s : State) : (s.complete).requested = s.requested := rfl
@[simp] theorem State.complete_remaining (s : State) : (s.complete).remaining = s.remaining := rfl
@[simp] theorem State.complete_fault (s : State) : (s.complete).fault = s.fault := rfl
@[simp] theorem State.complete_draws (s : State) : (s.complete).draws = s.draws := rfl

@[simp] theorem State.opcodeFetched_pc (s : State) : (s.opcodeFetched).pc = s.pc + 1#16 := rfl
@[simp] theorem State.opcodeFetched_sp (s : State) : (s.opcodeFetched).sp = s.sp := rfl
@[simp] theorem State.opcodeFetched_a (s : State) : (s.opcodeFetched).a = s.a := rfl
@[simp] theorem State.opcodeFetched_x (s : State) : (s.opcodeFetched).x = s.x := rfl
@[simp] theorem State.opcodeFetched_y (s : State) : (s.opcodeFetched).y = s.y := rfl
@[simp] theorem State.opcodeFetched_p (s : State) : (s.opcodeFetched).p = s.p := rfl
@[simp] theorem State.opcodeFetched_mem (s : State) : (s.opcodeFetched).mem = s.mem := rfl
@[simp] theorem State.opcodeFetched_mode (s : State) : (s.opcodeFetched).mode = .executing := rfl
@[simp] theorem State.opcodeFetched_inCall (s : State) : (s.opcodeFetched).inCall = s.inCall := rfl
@[simp] theorem State.opcodeFetched_requested (s : State) : (s.opcodeFetched).requested = s.requested := rfl
@[simp] theorem State.opcodeFetched_remaining (s : State) : (s.opcodeFetched).remaining = s.remaining - 1 := rfl
@[simp] theorem State.opcodeFetched_fault (s : State) : (s.opcodeFetched).fault = s.fault := rfl
@[simp] theorem State.opcodeFetched_draws (s : State) : (s.opcodeFetched).draws = s.draws := rfl

@[simp] theorem State.pushByte_pc (s : State) (v : Byte) : (s.pushByte v).pc = s.pc := rfl
@[simp] theorem State.pushByte_sp (s : State) (v : Byte) : (s.pushByte v).sp = s.sp - 1#8 := rfl
@[simp] theorem State.pushByte_a (s : State) (v : Byte) : (s.pushByte v).a = s.a := rfl
@[simp] theorem State.pushByte_x (s : State) (v : Byte) : (s.pushByte v).x = s.x := rfl
@[simp] theorem State.pushByte_y (s : State) (v : Byte) : (s.pushByte v).y = s.y := rfl
@[simp] theorem State.pushByte_p (s : State) (v : Byte) : (s.pushByte v).p = s.p := rfl
@[simp] theorem State.pushByte_mem (s : State) (v : Byte) : (s.pushByte v).mem = Memory.write s.mem (0x0100#16 + zext16 s.sp).toNat v := rfl
@[simp] theorem State.pushByte_mode (s : State) (v : Byte) : (s.pushByte v).mode = s.mode := rfl
@[simp] theorem State.pushByte_inCall (s : State) (v : Byte) : (s.pushByte v).inCall = s.inCall := rfl
@[simp] theorem State.pushByte_requested (s : State) (v : Byte) : (s.pushByte v).requested = s.requested := rfl
@[simp] theorem State.pushByte_remaining (s : State) (v : Byte) : (s.pushByte v).remaining = s.remaining - 1 := rfl
@[simp] theorem State.pushByte_fault (s : State) (v : Byte) : (s.pushByte v).fault = s.fault := rfl
@[simp] theorem State.pushByte_draws (s : State) (v : Byte) : (s.pushByte v).draws = s.draws := rfl

@[simp] theorem State.raise_pc (s : State) (r : FaultRecord) : (s.raise r).pc = s.pc := rfl
@[simp] theorem State.raise_sp (s : State) (r : FaultRecord) : (s.raise r).sp = s.sp := rfl
@[simp] theorem State.raise_a (s : State) (r : FaultRecord) : (s.raise r).a = s.a := rfl
@[simp] theorem State.raise_x (s : State) (r : FaultRecord) : (s.raise r).x = s.x := rfl
@[simp] theorem State.raise_y (s : State) (r : FaultRecord) : (s.raise r).y = s.y := rfl
@[simp] theorem State.raise_p (s : State) (r : FaultRecord) : (s.raise r).p = s.p := rfl
@[simp] theorem State.raise_mem (s : State) (r : FaultRecord) : (s.raise r).mem = s.mem := rfl
@[simp] theorem State.raise_mode (s : State) (r : FaultRecord) : (s.raise r).mode = .faulted := rfl
@[simp] theorem State.raise_inCall (s : State) (r : FaultRecord) : (s.raise r).inCall = false := rfl
@[simp] theorem State.raise_requested (s : State) (r : FaultRecord) : (s.raise r).requested = s.requested := rfl
@[simp] theorem State.raise_remaining (s : State) (r : FaultRecord) : (s.raise r).remaining = s.remaining := rfl
@[simp] theorem State.raise_fault (s : State) (r : FaultRecord) : (s.raise r).fault = some r := rfl
@[simp] theorem State.raise_draws (s : State) (r : FaultRecord) : (s.raise r).draws = s.draws := rfl

@[simp] theorem State.startCall_pc (s : State) (n : Int) : (s.startCall n).pc = s.pc := rfl
@[simp] theorem State.startCall_sp (s : State) (n : Int) : (s.startCall n).sp = s.sp := rfl
@[simp] theorem State.startCall_a (s : State) (n : Int) : (s.startCall n).a = s.a := rfl
@[simp] theorem State.startCall_x (s : State) (n : Int) : (s.startCall n).x = s.x := rfl
@[simp] theorem State.startCall_y (s : State) (n : Int) : (s.startCall n).y = s.y := rfl
@[simp] theorem State.startCall_p (s : State) (n : Int) : (s.startCall n).p = s.p := rfl
@[simp] theorem State.startCall_mem (s : State) (n : Int) : (s.startCall n).mem = s.mem := rfl
@[simp] theorem State.startCall_mode (s : State) (n : Int) : (s.startCall n).mode = .idle := rfl
@[simp] theorem State.startCall_inCall (s : State) (n : Int) : (s.startCall n).inCall = true := rfl
@[simp] theorem State.startCall_requested (s : State) (n : Int) : (s.startCall n).requested = n := rfl
@[simp] theorem State.startCall_remaining (s : State) (n : Int) : (s.startCall n).remaining = n := rfl
@[simp] theorem State.startCall_fault (s : State) (n : Int) : (s.startCall n).fault = none := rfl
@[simp] theorem State.startCall_draws (s : State) (n : Int) : (s.startCall n).draws = s.draws := rfl

@[simp] theorem State.endCall_pc (s : State) : (s.endCall).pc = s.pc := rfl
@[simp] theorem State.endCall_sp (s : State) : (s.endCall).sp = s.sp := rfl
@[simp] theorem State.endCall_a (s : State) : (s.endCall).a = s.a := rfl
@[simp] theorem State.endCall_x (s : State) : (s.endCall).x = s.x := rfl
@[simp] theorem State.endCall_y (s : State) : (s.endCall).y = s.y := rfl
@[simp] theorem State.endCall_p (s : State) : (s.endCall).p = s.p := rfl
@[simp] theorem State.endCall_mem (s : State) : (s.endCall).mem = s.mem := rfl
@[simp] theorem State.endCall_mode (s : State) : (s.endCall).mode = .done := rfl
@[simp] theorem State.endCall_inCall (s : State) : (s.endCall).inCall = false := rfl
@[simp] theorem State.endCall_requested (s : State) : (s.endCall).requested = s.requested := rfl
@[simp] theorem State.endCall_remaining (s : State) : (s.endCall).remaining = s.remaining := rfl
@[simp] theorem State.endCall_fault (s : State) : (s.endCall).fault = s.fault := rfl
@[simp] theorem State.endCall_draws (s : State) : (s.endCall).draws = s.draws := rfl

@[simp] theorem State.setReg_pc (s : State) (sel : Sel) (v : Byte) : (s.setReg sel v).pc = s.pc := by
  cases sel <;> rfl
@[simp] theorem State.setReg_sp (s : State) (sel : Sel) (v : Byte) : (s.setReg sel v).sp = s.sp := by
  cases sel <;> rfl
@[simp] theorem State.setReg_a (s : State) (sel : Sel) (v : Byte) : (s.setReg sel v).a = if sel = .accumulator then v else s.a := by
  cases sel <;> rfl
@[simp] theorem State.setReg_x (s : State) (sel : Sel) (v : Byte) : (s.setReg sel v).x = if sel = .registerX then v else s.x := by
  cases sel <;> rfl
@[simp] theorem State.setReg_y (s : State) (sel : Sel) (v : Byte) : (s.setReg sel v).y = if sel = .registerY then v else s.y := by
  cases sel <;> rfl
@[simp] theorem State.setReg_p (s : State) (sel : Sel) (v : Byte) : (s.setReg sel v).p = s.p := by
  cases sel <;> rfl
@[simp] theorem State.setReg_mem (s : State) (sel : Sel) (v : Byte) : (s.setReg sel v).mem = s.mem := by
  cases sel <;> rfl
@[simp] theorem State.setReg_mode (s : State) (sel : Sel) (v : Byte) : (s.setReg sel v).mode = s.mode := by
  cases sel <;> rfl
@[simp] theorem State.setReg_inCall (s : State) (sel : Sel) (v : Byte) : (s.setReg sel v).inCall = s.inCall := by
  cases sel <;> rfl
@[simp] theorem State.setReg_requested (s : State) (sel : Sel) (v : Byte) : (s.setReg sel v).requested = s.requested := by
  cases sel <;> rfl
@[simp] theorem State.setReg_remaining (s : State) (sel : Sel) (v : Byte) : (s.setReg sel v).remaining = s.remaining := by
  cases sel <;> rfl
@[simp] theorem State.setReg_fault (s : State) (sel : Sel) (v : Byte) : (s.setReg sel v).fault = s.fault := by
  cases sel <;> rfl
@[simp] theorem State.setReg_draws (s : State) (sel : Sel) (v : Byte) : (s.setReg sel v).draws = s.draws := by
  cases sel <;> rfl

/-- `k` fetched bytes move PC and the counter by `k` (40 R92). -/
theorem State.fetched_eq (s : State) (k : Nat) :
    s.fetched k = { s with pc := s.pc + BitVec.ofNat 16 k, remaining := s.remaining - k } := by
  induction k generalizing s with
  | zero => simp [State.fetched]
  | succ k ih =>
    simp only [State.fetched, State.fetchByte, State.charge, ih]
    congr 1
    · rw [BitVec.add_assoc, ← BitVec.ofNat_add, Nat.add_comm]
    · push_cast; omega

@[simp] theorem State.fetched_pc (s : State) (k : Nat) : (s.fetched k).pc = s.pc + BitVec.ofNat 16 k := by
  rw [State.fetched_eq]
@[simp] theorem State.fetched_sp (s : State) (k : Nat) : (s.fetched k).sp = s.sp := by
  rw [State.fetched_eq]
@[simp] theorem State.fetched_a (s : State) (k : Nat) : (s.fetched k).a = s.a := by
  rw [State.fetched_eq]
@[simp] theorem State.fetched_x (s : State) (k : Nat) : (s.fetched k).x = s.x := by
  rw [State.fetched_eq]
@[simp] theorem State.fetched_y (s : State) (k : Nat) : (s.fetched k).y = s.y := by
  rw [State.fetched_eq]
@[simp] theorem State.fetched_p (s : State) (k : Nat) : (s.fetched k).p = s.p := by
  rw [State.fetched_eq]
@[simp] theorem State.fetched_mem (s : State) (k : Nat) : (s.fetched k).mem = s.mem := by
  rw [State.fetched_eq]
@[simp] theorem State.fetched_mode (s : State) (k : Nat) : (s.fetched k).mode = s.mode := by
  rw [State.fetched_eq]
@[simp] theorem State.fetched_inCall (s : State) (k : Nat) : (s.fetched k).inCall = s.inCall := by
  rw [State.fetched_eq]
@[simp] theorem State.fetched_requested (s : State) (k : Nat) : (s.fetched k).requested = s.requested := by
  rw [State.fetched_eq]
@[simp] theorem State.fetched_remaining (s : State) (k : Nat) : (s.fetched k).remaining = s.remaining - k := by
  rw [State.fetched_eq]
@[simp] theorem State.fetched_fault (s : State) (k : Nat) : (s.fetched k).fault = s.fault := by
  rw [State.fetched_eq]
@[simp] theorem State.fetched_draws (s : State) (k : Nat) : (s.fetched k).draws = s.draws := by
  rw [State.fetched_eq]

/-- Registers are read back as written, each from its own storage (10_state R26, R27). -/
@[simp] theorem State.reg_setReg (s : State) (sel sel' : Sel) (v : Byte) :
    (s.setReg sel v).reg sel' = if sel' = sel then v else s.reg sel' := by
  cases sel <;> cases sel' <;> rfl

@[simp] theorem Status.updZN_c (p : Status) (v : Byte) : (p.updZN v).c = p.c := rfl
@[simp] theorem Status.updZN_z (p : Status) (v : Byte) : (p.updZN v).z = (v == 0#8) := rfl
@[simp] theorem Status.updZN_i (p : Status) (v : Byte) : (p.updZN v).i = p.i := rfl
@[simp] theorem Status.updZN_d (p : Status) (v : Byte) : (p.updZN v).d = p.d := rfl
@[simp] theorem Status.updZN_b (p : Status) (v : Byte) : (p.updZN v).b = p.b := rfl
@[simp] theorem Status.updZN_v (p : Status) (v : Byte) : (p.updZN v).v = p.v := rfl
@[simp] theorem Status.updZN_n (p : Status) (v : Byte) : (p.updZN v).n = v.getLsbD 7 := rfl

end Sys2Proof.Machine
end

