-- ==== Sys2Proof/Laws/Exec.lean ====
section
/-! SUPPORT. What each shared operation can do, said once: the resolver, the generic load and store, JSR, the dispatch
to them, and one step. Later proofs cite these and unfold none of the operations. -/

namespace Sys2Proof.Machine

/-- The operand bytes of a memory operand (41_addressing_modes R127). -/
def MemOperand.size : MemOperand → Nat
  | .zeroPage _ | .zeroPageX _ | .zeroPageY _ | .indirectX _ | .indirectY _ => 1
  | .absolute _ | .absoluteX _ | .absoluteY _ => 2

/-- The indexed sum overflows and nothing is charged, or it is the address and at most one cycle is charged. -/
theorem State.indexed_cases (s : State) (ctx : Ctx) (mode : IndexedMode) (base : Addr) (index : Byte) :
    (0xFFFF < base.toNat + index.toNat ∧ s.indexed ctx mode base index = (.overflow mode base index, s)) ∨
    (base.toNat + index.toNat ≤ 0xFFFF ∧ ∃ k : Int, 0 ≤ k ∧ k ≤ 1 ∧
      s.indexed ctx mode base index = (.addr (base + zext16 index), s.charge k)) := by
  unfold State.indexed
  by_cases h : 0xFFFF < base.toNat + index.toNat
  · exact .inl ⟨h, if_pos h⟩
  · refine .inr ⟨by omega, ?_⟩
    rw [if_neg h]
    cases ctx with
    | store => exact ⟨1, by omega, by omega, rfl⟩
    | load =>
      by_cases hc : pageCross base (base + zext16 index) = true
      · exact ⟨1, by omega, by omega, by simp [hc]⟩
      · exact ⟨0, by omega, by omega, by simp [hc, State.charge]⟩

/-- A charge of nothing. -/
theorem State.charge_charge (s : State) (m n : Int) : (s.charge m).charge n = s.charge (m + n) := by
  simp only [State.charge]
  congr 1
  omega

/-- A resolver writes PC and the counter alone: PC goes past the operand bytes, 1 to 4 cycles are charged
(41_addressing_modes R110, R127). -/
theorem State.locate_state (s : State) (ctx : Ctx) (o : MemOperand) :
    ∃ k : Int, 1 ≤ k ∧ k ≤ 4 ∧ (s.locate ctx o).2 =
      { s with pc := s.pc + BitVec.ofNat 16 o.size, remaining := s.remaining - k } := by
  have indexed : ∀ (t : State) (mode : IndexedMode) (base : Addr) (index : Byte) (j : Int), 1 ≤ j → j ≤ 3 →
      t = { s with pc := s.pc + BitVec.ofNat 16 o.size, remaining := s.remaining - j } →
      ∃ k : Int, 1 ≤ k ∧ k ≤ 4 ∧ (t.indexed ctx mode base index).2 =
        { s with pc := s.pc + BitVec.ofNat 16 o.size, remaining := s.remaining - k } := by
    intro t mode base index j hj hj' ht
    obtain ⟨-, h⟩ | ⟨-, k, hk, hk', h⟩ := t.indexed_cases ctx mode base index
    · exact ⟨j, hj, by omega, by rw [h]; exact ht⟩
    · refine ⟨j + k, by omega, by omega, ?_⟩
      rw [h, ht]
      simp only [State.charge]
      congr 1
      omega
  cases o with
  | zeroPage z => exact ⟨1, by omega, by omega, by rw [State.locate, State.fetched_eq]; rfl⟩
  | zeroPageX z =>
    exact ⟨2, by omega, by omega, by simp only [State.locate, State.fetched_eq, State.charge]; congr 1; push_cast; omega⟩
  | zeroPageY z =>
    exact ⟨2, by omega, by omega, by simp only [State.locate, State.fetched_eq, State.charge]; congr 1; push_cast; omega⟩
  | absolute a => exact ⟨2, by omega, by omega, by rw [State.locate, State.fetched_eq]; rfl⟩
  | absoluteX base => exact indexed _ _ _ _ 2 (by omega) (by omega) (by rw [State.fetched_eq]; rfl)
  | absoluteY base => exact indexed _ _ _ _ 2 (by omega) (by omega) (by rw [State.fetched_eq]; rfl)
  | indirectX z =>
    refine ⟨4, by omega, by omega, ?_⟩
    simp only [State.locate, State.readPtrZP, State.readPtrZPWith, State.fetched_eq, State.charge]
    congr 1
    push_cast
    omega
  | indirectY z =>
    refine indexed _ _ _ _ 3 (by omega) (by omega) ?_
    simp only [State.readPtrZP, State.readPtrZPWith, State.fetched_eq, State.charge]
    congr 1
    push_cast
    omega

/-- An AddressOverflow forgets everything a resolver has done: what it leaves depends on the state before it only. -/
theorem State.raiseAddressOverflow_congr {s t : State} (mode : IndexedMode) (base : Addr) (index : Byte) (addr : Addr)
    (hm : t.mem = s.mem) (hr : t.requested = s.requested) (hd : t.draws = s.draws) :
    t.raiseAddressOverflow mode base index addr = s.raiseAddressOverflow mode base index addr := by
  simp only [State.raiseAddressOverflow, State.raise, hm, hr, hd]

/-- A load completes, with a value in its register and Z and N set from it, after 2 to 6 cycles; or its sum
overflows (42_loads R141, 41_addressing_modes R114). -/
theorem load_cases (sel : Sel) (o : Operand) (s : State) :
    (∃ (v : Byte) (n : Nat) (k : Int), 2 ≤ k ∧ k ≤ 6 ∧ load sel o s =
      .next (State.loadInto { s with pc := s.pc + BitVec.ofNat 16 n, remaining := s.remaining - k } sel v)) ∨
    (∃ mode base index, load sel o s = .next (s.raiseAddressOverflow mode base index s.pc)) := by
  cases o with
  | immediate v =>
    refine .inl ⟨v, 2, 2, by omega, by omega, ?_⟩
    simp only [load, State.resolve, State.opcodeFetched, State.fetched_eq]
    congr 1
    simp only [State.loadInto, State.updZN, State.complete, State.setReg]
    have hpc : s.pc + BitVec.ofNat 16 1 + BitVec.ofNat 16 1 = s.pc + BitVec.ofNat 16 2 := by bv_omega
    have hr : s.remaining - 1 - 1 = s.remaining - 2 := by omega
    cases sel <;> simp only [hpc, Nat.cast_one, hr]
  | mem o =>
    obtain ⟨k, hk, hk', ht⟩ := s.opcodeFetched.locate_state .load o
    simp only [load, State.resolve]
    cases hl : (s.opcodeFetched.locate .load o).1 with
    | addr ea =>
      refine .inl ⟨(s.opcodeFetched.locate .load o).2.memRead ea, 1 + o.size, k + 2, by omega, by omega, ?_⟩
      rw [ht]
      simp only []
      congr 1
      cases sel <;>
        simp [State.loadInto, State.setReg, State.updZN, State.complete, State.charge, BitVec.ofNat_add,
          BitVec.add_assoc] <;> omega
    | overflow mode base index =>
      refine .inr ⟨mode, base, index, ?_⟩
      rw [ht]
      simp only []
      congr 1

/-- A store completes, one byte written with its register's value and no register or flag but PC changed; or its sum
overflows and nothing is written (43_stores R170, 41_addressing_modes R114). -/
theorem store_cases (sel : Sel) (o : MemOperand) (s : State) :
    (∃ (ea : Addr) (n : Nat) (k : Int), 2 ≤ k ∧ k ≤ 6 ∧ (s.opcodeFetched.locate .store o).1 = .addr ea ∧
      store sel o s = .next { s with
        pc := s.pc + BitVec.ofNat 16 n, remaining := s.remaining - k, mode := .idle,
        mem := Memory.write s.mem ea.toNat (s.reg sel) }) ∨
    (∃ mode base index, (s.opcodeFetched.locate .store o).1 = .overflow mode base index ∧
      store sel o s = .next (s.raiseAddressOverflow mode base index s.pc)) := by
  obtain ⟨k, hk, hk', ht⟩ := s.opcodeFetched.locate_state .store o
  simp only [store]
  cases hl : (s.opcodeFetched.locate .store o).1 with
  | addr ea =>
    refine .inl ⟨ea, 1 + o.size, k + 2, by omega, by omega, rfl, ?_⟩
    rw [show s.opcodeFetched.locate .store o = (.addr ea, (s.opcodeFetched.locate .store o).2) by rw [← hl]]
    simp only []
    congr 1
    rw [ht]
    cases sel <;>
      simp [State.memWrite, State.reg, State.complete, State.charge, BitVec.ofNat_add, BitVec.add_assoc] <;> omega
  | overflow mode base index =>
    refine .inr ⟨mode, base, index, rfl, ?_⟩
    rw [show s.opcodeFetched.locate .store o = (.overflow mode base index, (s.opcodeFetched.locate .store o).2) by rw [← hl]]
    simp only []
    congr 1
    rw [ht]
    exact State.raiseAddressOverflow_congr _ _ _ _ (by simp) (by simp) (by simp)

/-- JSR always completes: two bytes on the stack page, SP down by two, PC the target, six cycles (44_jsr R190). -/
theorem execJsr_eq (target : Addr) (s : State) :
    execJsr target s = .next { s with
      pc := target, remaining := s.remaining - 6, mode := .idle, sp := s.sp - 2#8,
      mem := Memory.write
        (Memory.write s.mem (0x0100#16 + zext16 s.sp).toNat (highByte (s.pc + 2#16)))
        (0x0100#16 + zext16 (s.sp - 1#8)).toNat (lowByte (s.pc + 2#16)) } := by
  have hret : s.pc + 1#16 + 2#16 - 1#16 = s.pc + 2#16 := by bv_omega
  have hsp : s.sp - 1#8 - 1#8 = s.sp - 2#8 := by bv_omega
  simp only [execJsr, jsrWith, Config.jsrReturnDiscipline, State.writeReturn, State.pushByte, State.opcodeFetched,
    State.fetched_eq, State.memWrite, State.complete, State.charge, hret, hsp]
  congr 1
  simp
  omega

/-- A load instruction runs the generic load of its form (40 R95). -/
theorem exec_load {i : Instr} (h : i.form.effect = .load) :
    ∃ sel o, i.form.sel = some sel ∧ (∀ m, memOperand i = some m → o = .mem m) ∧ ∀ s, exec i s = load sel o s := by
  cases i <;> first
    | (simp [Instr.form, Form.ofLoad, Form.ofStore, Form.ofJsr] at h; done)
    | (simp only [exec,
      execLdaImmediate, execLdaZeroPage, execLdaZeroPageX, execLdaAbsolute, execLdaAbsoluteX,
      execLdaAbsoluteY, execLdaIndirectX, execLdaIndirectY, execLdxImmediate, execLdxZeroPage,
      execLdxZeroPageY, execLdxAbsolute, execLdxAbsoluteY, execLdyImmediate, execLdyZeroPage,
      execLdyZeroPageX, execLdyAbsolute, execLdyAbsoluteX];
       refine ⟨_, _, rfl, ?_, fun _ => rfl⟩; intro m hm; simp_all [memOperand])

/-- A store instruction runs the generic store of its form on its memory operand (40 R95). -/
theorem exec_store {i : Instr} (h : i.form.effect = .store) :
    ∃ sel o, i.form.sel = some sel ∧ memOperand i = some o ∧ ∀ s, exec i s = store sel o s := by
  cases i <;> first | exact ⟨_, _, rfl, rfl, fun _ => rfl⟩ | (simp [Instr.form, Form.ofLoad, Form.ofJsr] at h)

/-- The only other instruction is JSR. -/
theorem jsr_of_effect {i : Instr} (h : i.form.effect = .jsr) : ∃ target, i = .jsr target := by
  cases i <;> first | exact ⟨_, rfl⟩ | (simp [Instr.form, Form.ofLoad, Form.ofStore] at h)

/-- What one step can do: end the call, run the decoded instruction, take UnsupportedOpcode, do nothing where no call
is in progress, report the fault, or refuse a state that is no boundary (40 R93 to R96, 60_exceptions R201, R204). -/
theorem step_cases (s : State) :
    (s.mode = .idle ∧ s.inCall = true ∧ s.remaining ≤ 0 ∧ step s = .next s.endCall) ∨
    (s.mode = .idle ∧ s.inCall = true ∧ 0 < s.remaining ∧ ∃ i rest, decode s.fetchBytes = .ok (i, rest) ∧
      step s = exec i s) ∨
    (s.mode = .idle ∧ s.inCall = true ∧ 0 < s.remaining ∧ ∃ e, decode s.fetchBytes = .error e ∧
      step s = .next s.raiseUnsupportedOpcode) ∨
    ((s.mode = .done ∨ s.mode = .idle ∧ s.inCall = false) ∧ step s = .next s) ∨
    (s.mode = .faulted ∧ ∃ r, s.fault = some r ∧ step s = .fault (.engineFault r)) ∨
    step s = .refused .notAtBoundary := by
  cases hm : s.mode with
  | idle =>
    cases hc : s.inCall with
    | false => exact .inr (.inr (.inr (.inl ⟨.inr ⟨rfl, rfl⟩, by simp [step, hm, hc]⟩)))
    | true =>
      by_cases hr : s.remaining ≤ 0
      · exact .inl ⟨rfl, rfl, hr, by simp [step, hm, hc, State.atBoundary, hr]⟩
      · cases hd : decode s.fetchBytes with
        | ok ir =>
          exact .inr (.inl ⟨rfl, rfl, by omega, ir.1, ir.2, rfl, by
            simp [step, hm, hc, State.atBoundary, hr, State.runInstruction, hd]⟩)
        | error e =>
          exact .inr (.inr (.inl ⟨rfl, rfl, by omega, e, rfl, by
            simp [step, hm, hc, State.atBoundary, hr, State.runInstruction, hd]⟩))
  | done => exact .inr (.inr (.inr (.inl ⟨.inl rfl, by simp [step, hm]⟩)))
  | faulted =>
    cases hf : s.fault with
    | none => exact .inr (.inr (.inr (.inr (.inr (by simp [step, hm, hf])))))
    | some r => exact .inr (.inr (.inr (.inr (.inl ⟨rfl, r, rfl, by simp [step, hm, hf]⟩))))
  | executing => exact .inr (.inr (.inr (.inr (.inr (by simp [step, hm])))))

end Sys2Proof.Machine
end

