-- ==== Sys2Proof/Laws/PerInstr.lean ====
section
/-! SUPPORT. Facts about each instruction as syntax, one lemma per constructor: its opcode byte decodes to its own
form, its encoding has its format's length, and its form is a row of 30_encoding R73. -/

namespace Sys2Proof.Laws

/-- What `OpcodeShape` says of an instruction (30_encoding R73, R74, R76). -/
def OpcodeShape.Statement (i : Instr) : Prop :=
  decodeOpcode i.opcode = some i.form ∧ (encode i).length = i.length ∧ i.wellFormed = true

theorem OpcodeShape.ldaImmediate (v : Byte) : OpcodeShape.Statement (.ldaImmediate v) := ⟨rfl, rfl, rfl⟩
theorem OpcodeShape.ldaZeroPage (z : Byte) : OpcodeShape.Statement (.ldaZeroPage z) := ⟨rfl, rfl, rfl⟩
theorem OpcodeShape.ldaZeroPageX (z : Byte) : OpcodeShape.Statement (.ldaZeroPageX z) := ⟨rfl, rfl, rfl⟩
theorem OpcodeShape.ldaAbsolute (a : Addr) : OpcodeShape.Statement (.ldaAbsolute a) := ⟨rfl, rfl, rfl⟩
theorem OpcodeShape.ldaAbsoluteX (base : Addr) : OpcodeShape.Statement (.ldaAbsoluteX base) := ⟨rfl, rfl, rfl⟩
theorem OpcodeShape.ldaAbsoluteY (base : Addr) : OpcodeShape.Statement (.ldaAbsoluteY base) := ⟨rfl, rfl, rfl⟩
theorem OpcodeShape.ldaIndirectX (z : Byte) : OpcodeShape.Statement (.ldaIndirectX z) := ⟨rfl, rfl, rfl⟩
theorem OpcodeShape.ldaIndirectY (z : Byte) : OpcodeShape.Statement (.ldaIndirectY z) := ⟨rfl, rfl, rfl⟩
theorem OpcodeShape.ldxImmediate (v : Byte) : OpcodeShape.Statement (.ldxImmediate v) := ⟨rfl, rfl, rfl⟩
theorem OpcodeShape.ldxZeroPage (z : Byte) : OpcodeShape.Statement (.ldxZeroPage z) := ⟨rfl, rfl, rfl⟩
theorem OpcodeShape.ldxZeroPageY (z : Byte) : OpcodeShape.Statement (.ldxZeroPageY z) := ⟨rfl, rfl, rfl⟩
theorem OpcodeShape.ldxAbsolute (a : Addr) : OpcodeShape.Statement (.ldxAbsolute a) := ⟨rfl, rfl, rfl⟩
theorem OpcodeShape.ldxAbsoluteY (base : Addr) : OpcodeShape.Statement (.ldxAbsoluteY base) := ⟨rfl, rfl, rfl⟩
theorem OpcodeShape.ldyImmediate (v : Byte) : OpcodeShape.Statement (.ldyImmediate v) := ⟨rfl, rfl, rfl⟩
theorem OpcodeShape.ldyZeroPage (z : Byte) : OpcodeShape.Statement (.ldyZeroPage z) := ⟨rfl, rfl, rfl⟩
theorem OpcodeShape.ldyZeroPageX (z : Byte) : OpcodeShape.Statement (.ldyZeroPageX z) := ⟨rfl, rfl, rfl⟩
theorem OpcodeShape.ldyAbsolute (a : Addr) : OpcodeShape.Statement (.ldyAbsolute a) := ⟨rfl, rfl, rfl⟩
theorem OpcodeShape.ldyAbsoluteX (base : Addr) : OpcodeShape.Statement (.ldyAbsoluteX base) := ⟨rfl, rfl, rfl⟩
theorem OpcodeShape.staZeroPage (z : Byte) : OpcodeShape.Statement (.staZeroPage z) := ⟨rfl, rfl, rfl⟩
theorem OpcodeShape.staZeroPageX (z : Byte) : OpcodeShape.Statement (.staZeroPageX z) := ⟨rfl, rfl, rfl⟩
theorem OpcodeShape.staAbsolute (a : Addr) : OpcodeShape.Statement (.staAbsolute a) := ⟨rfl, rfl, rfl⟩
theorem OpcodeShape.staAbsoluteX (base : Addr) : OpcodeShape.Statement (.staAbsoluteX base) := ⟨rfl, rfl, rfl⟩
theorem OpcodeShape.staAbsoluteY (base : Addr) : OpcodeShape.Statement (.staAbsoluteY base) := ⟨rfl, rfl, rfl⟩
theorem OpcodeShape.staIndirectX (z : Byte) : OpcodeShape.Statement (.staIndirectX z) := ⟨rfl, rfl, rfl⟩
theorem OpcodeShape.staIndirectY (z : Byte) : OpcodeShape.Statement (.staIndirectY z) := ⟨rfl, rfl, rfl⟩
theorem OpcodeShape.stxZeroPage (z : Byte) : OpcodeShape.Statement (.stxZeroPage z) := ⟨rfl, rfl, rfl⟩
theorem OpcodeShape.stxZeroPageY (z : Byte) : OpcodeShape.Statement (.stxZeroPageY z) := ⟨rfl, rfl, rfl⟩
theorem OpcodeShape.stxAbsolute (a : Addr) : OpcodeShape.Statement (.stxAbsolute a) := ⟨rfl, rfl, rfl⟩
theorem OpcodeShape.styZeroPage (z : Byte) : OpcodeShape.Statement (.styZeroPage z) := ⟨rfl, rfl, rfl⟩
theorem OpcodeShape.styZeroPageX (z : Byte) : OpcodeShape.Statement (.styZeroPageX z) := ⟨rfl, rfl, rfl⟩
theorem OpcodeShape.styAbsolute (a : Addr) : OpcodeShape.Statement (.styAbsolute a) := ⟨rfl, rfl, rfl⟩
theorem OpcodeShape.jsr (target : Addr) : OpcodeShape.Statement (.jsr target) := ⟨rfl, rfl, rfl⟩

end Sys2Proof.Laws
end

