-- ==== Sys2Proof/Tests/Slice0.lean ====
section
/-! SUPPORT. Tests: ill-formed forms that each check of well-formedness refuses, decoding of bytes written out from
30_encoding R73, one-step tests whose expected values are those of 95_test_vectors, and the witnesses that the
hypotheses of the obligations can be met. -/

namespace Sys2Proof.Tests

open Sys2Proof.Machine

/-! ## Ill-formed forms: each breaks one check and no other -/

/-- The checks of `Form.wellFormed`, in its order. -/
def checks (f : Form) : List Bool :=
  [f.ctxMatchesEffect, f.selMatchesEffect, f.targetOnlyForJsr, f.immediateOnlyLoads, f.indexIsNotSel,
    f.indirectOnlyAccumulator, f.zeroPageYOnlyX, f.absoluteIndexedStoreOnlyAccumulator]

theorem test_wf_refuses_ctx :
    let f : Form := ⟨.load, some .accumulator, .immediate, some .store⟩
    checks f = [false, true, true, true, true, true, true, true] ∧ f.wellFormed = false := by decide

theorem test_wf_refuses_sel :
    let f : Form := ⟨.jsr, some .accumulator, .absoluteTarget, none⟩
    checks f = [true, false, true, true, true, true, true, true] ∧ f.wellFormed = false := by decide

theorem test_wf_refuses_target :
    let f : Form := ⟨.load, some .accumulator, .absoluteTarget, some .load⟩
    checks f = [true, true, false, true, true, true, true, true] ∧ f.wellFormed = false := by decide

theorem test_wf_refuses_store_immediate :
    let f : Form := ⟨.store, some .accumulator, .immediate, some .store⟩
    checks f = [true, true, true, false, true, true, true, true] ∧ f.wellFormed = false := by decide

theorem test_wf_refuses_index_is_sel :
    let f : Form := ⟨.load, some .registerX, .absoluteX, some .load⟩
    checks f = [true, true, true, true, false, true, true, true] ∧ f.wellFormed = false := by decide

theorem test_wf_refuses_indirect_x :
    let f : Form := ⟨.load, some .registerX, .indirectX, some .load⟩
    checks f = [true, true, true, true, true, false, true, true] ∧ f.wellFormed = false := by decide

theorem test_wf_refuses_zero_page_y :
    let f : Form := ⟨.load, some .accumulator, .zeroPageY, some .load⟩
    checks f = [true, true, true, true, true, true, false, true] ∧ f.wellFormed = false := by decide

theorem test_wf_refuses_absolute_indexed_store :
    let f : Form := ⟨.store, some .registerX, .absoluteY, some .store⟩
    checks f = [true, true, true, true, true, true, true, false] ∧ f.wellFormed = false := by decide

theorem test_wf_accepts_lda_immediate : (Instr.ldaImmediate 0x84#8).wellFormed = true := by decide

/-! ## Decoding: one word for each row of 30_encoding R73, opcode first, `abs16` low byte first (R71, R72) -/

theorem test_decode_lda_immediate : decode [0xA9#8, 0x84#8, 0xEE#8] = .ok (.ldaImmediate 0x84#8, [0xEE#8]) := by decide
theorem test_decode_lda_zero_page : decode [0xA5#8, 0x84#8, 0xEE#8] = .ok (.ldaZeroPage 0x84#8, [0xEE#8]) := by decide
theorem test_decode_lda_zero_page_x :
    decode [0xB5#8, 0x84#8, 0xEE#8] = .ok (.ldaZeroPageX 0x84#8, [0xEE#8]) := by decide
theorem test_decode_lda_absolute :
    decode [0xAD#8, 0x34#8, 0x12#8, 0xEE#8] = .ok (.ldaAbsolute 0x1234#16, [0xEE#8]) := by decide
theorem test_decode_lda_absolute_x :
    decode [0xBD#8, 0x34#8, 0x12#8, 0xEE#8] = .ok (.ldaAbsoluteX 0x1234#16, [0xEE#8]) := by decide
theorem test_decode_lda_absolute_y :
    decode [0xB9#8, 0x34#8, 0x12#8, 0xEE#8] = .ok (.ldaAbsoluteY 0x1234#16, [0xEE#8]) := by decide
theorem test_decode_lda_indirect_x : decode [0xA1#8, 0x84#8, 0xEE#8] = .ok (.ldaIndirectX 0x84#8, [0xEE#8]) := by decide
theorem test_decode_lda_indirect_y : decode [0xB1#8, 0x84#8, 0xEE#8] = .ok (.ldaIndirectY 0x84#8, [0xEE#8]) := by decide
theorem test_decode_ldx_immediate : decode [0xA2#8, 0x84#8, 0xEE#8] = .ok (.ldxImmediate 0x84#8, [0xEE#8]) := by decide
theorem test_decode_ldx_zero_page : decode [0xA6#8, 0x84#8, 0xEE#8] = .ok (.ldxZeroPage 0x84#8, [0xEE#8]) := by decide
theorem test_decode_ldx_zero_page_y :
    decode [0xB6#8, 0x84#8, 0xEE#8] = .ok (.ldxZeroPageY 0x84#8, [0xEE#8]) := by decide
theorem test_decode_ldx_absolute :
    decode [0xAE#8, 0x34#8, 0x12#8, 0xEE#8] = .ok (.ldxAbsolute 0x1234#16, [0xEE#8]) := by decide
theorem test_decode_ldx_absolute_y :
    decode [0xBE#8, 0x34#8, 0x12#8, 0xEE#8] = .ok (.ldxAbsoluteY 0x1234#16, [0xEE#8]) := by decide
theorem test_decode_ldy_immediate : decode [0xA0#8, 0x84#8, 0xEE#8] = .ok (.ldyImmediate 0x84#8, [0xEE#8]) := by decide
theorem test_decode_ldy_zero_page : decode [0xA4#8, 0x84#8, 0xEE#8] = .ok (.ldyZeroPage 0x84#8, [0xEE#8]) := by decide
theorem test_decode_ldy_zero_page_x :
    decode [0xB4#8, 0x84#8, 0xEE#8] = .ok (.ldyZeroPageX 0x84#8, [0xEE#8]) := by decide
theorem test_decode_ldy_absolute :
    decode [0xAC#8, 0x34#8, 0x12#8, 0xEE#8] = .ok (.ldyAbsolute 0x1234#16, [0xEE#8]) := by decide
theorem test_decode_ldy_absolute_x :
    decode [0xBC#8, 0x34#8, 0x12#8, 0xEE#8] = .ok (.ldyAbsoluteX 0x1234#16, [0xEE#8]) := by decide
theorem test_decode_sta_zero_page : decode [0x85#8, 0x84#8, 0xEE#8] = .ok (.staZeroPage 0x84#8, [0xEE#8]) := by decide
theorem test_decode_sta_zero_page_x :
    decode [0x95#8, 0x84#8, 0xEE#8] = .ok (.staZeroPageX 0x84#8, [0xEE#8]) := by decide
theorem test_decode_sta_absolute :
    decode [0x8D#8, 0x34#8, 0x12#8, 0xEE#8] = .ok (.staAbsolute 0x1234#16, [0xEE#8]) := by decide
theorem test_decode_sta_absolute_x :
    decode [0x9D#8, 0x34#8, 0x12#8, 0xEE#8] = .ok (.staAbsoluteX 0x1234#16, [0xEE#8]) := by decide
theorem test_decode_sta_absolute_y :
    decode [0x99#8, 0x34#8, 0x12#8, 0xEE#8] = .ok (.staAbsoluteY 0x1234#16, [0xEE#8]) := by decide
theorem test_decode_sta_indirect_x : decode [0x81#8, 0x84#8, 0xEE#8] = .ok (.staIndirectX 0x84#8, [0xEE#8]) := by decide
theorem test_decode_sta_indirect_y : decode [0x91#8, 0x84#8, 0xEE#8] = .ok (.staIndirectY 0x84#8, [0xEE#8]) := by decide
theorem test_decode_stx_zero_page : decode [0x86#8, 0x84#8, 0xEE#8] = .ok (.stxZeroPage 0x84#8, [0xEE#8]) := by decide
theorem test_decode_stx_zero_page_y :
    decode [0x96#8, 0x84#8, 0xEE#8] = .ok (.stxZeroPageY 0x84#8, [0xEE#8]) := by decide
theorem test_decode_stx_absolute :
    decode [0x8E#8, 0x34#8, 0x12#8, 0xEE#8] = .ok (.stxAbsolute 0x1234#16, [0xEE#8]) := by decide
theorem test_decode_sty_zero_page : decode [0x84#8, 0x84#8, 0xEE#8] = .ok (.styZeroPage 0x84#8, [0xEE#8]) := by decide
theorem test_decode_sty_zero_page_x :
    decode [0x94#8, 0x84#8, 0xEE#8] = .ok (.styZeroPageX 0x84#8, [0xEE#8]) := by decide
theorem test_decode_sty_absolute :
    decode [0x8C#8, 0x34#8, 0x12#8, 0xEE#8] = .ok (.styAbsolute 0x1234#16, [0xEE#8]) := by decide
theorem test_decode_jsr :
    decode [0x20#8, 0x34#8, 0x12#8, 0xEE#8] = .ok (.jsr 0x1234#16, [0xEE#8]) := by decide

/-- Illegal opcodes of 95_test_vectors V66. -/
theorem test_decode_refuses_illegal :
    [0x00#8, 0x40#8, 0x60#8, 0x69#8, 0x9C#8, 0xEA#8, 0xFF#8].map decodeOpcode = List.replicate 7 none ∧
    decode [0xEA#8, 0x00#8] = .error (.unsupportedOpcode 0xEA#8) := by decide
theorem test_decode_refuses_short :
    decode [] = .error .noBytes ∧ decode [0x20#8, 0x00#8] = .error (.operandBytesMissing 0x20#8) := by decide
theorem test_encode_low_byte_first : encode (.jsr 0x8000#16) = [0x20#8, 0x00#8, 0x80#8] := by decide
theorem test_table_word :
    decodeTableWord 8 0xA9 = some (.ldaImmediate 0x00#8) ∧ decodeTableWord 16 0x84A9 = some (.ldaImmediate 0x84#8) ∧
    decodeTableWord 24 0x1234AD = some (.ldaAbsolute 0x1234#16) ∧ decodeTableWord 8 0xEA = none := by decide
theorem test_fetch_word_runs_next :
    step (State.reset.withFetchWord 16 0x84A9) =
      exec (.ldaImmediate 0x84#8) (State.reset.withFetchWord 16 0x84A9) := rfl

/-! ## One step of each instruction, expected values from 95_test_vectors -/

/-- The convention of 95_test_vectors section 2: reset, bytes at 0x0200, PC there. -/
def program (bytes : List Byte) : State := ({ State.reset with pc := 0x0200#16 }.writeBytes 0x0200#16 bytes)

/-- One byte of memory written by the host. -/
def poke (s : State) (a : Addr) (v : Byte) : State := s.memWrite a v

/-- Start a call of one cycle, make one step and look at the state it gives. -/
def look {α : Type} (s : State) (f : State → α) : Option α :=
  match step (s.startCall 1) with
  | .next t => some (f t)
  | _ => none

/-- The cycles charged, PC, A, Z and N. -/
def viewA (t : State) : Int × Addr × Byte × Bool × Bool := (1 - t.remaining, t.pc, t.a, t.p.z, t.p.n)
/-- The cycles charged, PC, X, Z and N. -/
def viewX (t : State) : Int × Addr × Byte × Bool × Bool := (1 - t.remaining, t.pc, t.x, t.p.z, t.p.n)
/-- The cycles charged, PC, Y, Z and N. -/
def viewY (t : State) : Int × Addr × Byte × Bool × Bool := (1 - t.remaining, t.pc, t.y, t.p.z, t.p.n)
/-- The cycles charged, PC, the byte at `a` and the packed status. -/
def viewM (a : Addr) (t : State) : Int × Addr × Byte × Byte := (1 - t.remaining, t.pc, t.memRead a, t.p.pack)
/-- Mode, record and memory after a fault. -/
def viewF (t : State) : Mode × Option FaultRecord × Memory := (t.mode, t.fault, t.mem)

/-- V1. -/
theorem test_lda_immediate_zero :
    look (program [0xA9#8, 0x00#8]) viewA =
      some (2, 0x0202#16, 0x00#8, true, false) := by decide
/-- V3. -/
theorem test_lda_immediate_negative :
    look (program [0xA9#8, 0x80#8]) viewA =
      some (2, 0x0202#16, 0x80#8, false, true) := by decide
/-- V5. -/
theorem test_lda_zero_page :
    look (poke (program [0xA5#8, 0x10#8]) 0x0010#16 0xFF#8) viewA =
      some (3, 0x0202#16, 0xFF#8, false, true) := by decide
/-- S4: the sum wraps in the zero page. -/
theorem test_lda_zero_page_x_wraps :
    look { poke (poke (program [0xB5#8, 0x80#8]) 0x007F#16 0x01#8) 0x017F#16 0x99#8 with x := 0xFF#8 } viewA =
      some (4, 0x0202#16, 0x01#8, false, false) := by decide
/-- V6. -/
theorem test_lda_absolute :
    look (poke (program [0xAD#8, 0x34#8, 0x12#8]) 0x1234#16 0x80#8) viewA =
      some (4, 0x0203#16, 0x80#8, false, true) := by decide
/-- V7. -/
theorem test_lda_absolute_x_cross :
    look { poke (program [0xBD#8, 0xF0#8, 0x12#8]) 0x1310#16 0x55#8 with x := 0x20#8 } viewA =
      some (5, 0x0203#16, 0x55#8, false, false) := by decide
/-- V8. -/
theorem test_lda_absolute_x_no_cross :
    look { program [0xBD#8, 0x00#8, 0x12#8] with x := 0xFF#8, p := { n := true } } viewA =
      some (4, 0x0203#16, 0x00#8, true, false) := by decide
/-- V12. -/
theorem test_lda_absolute_y_cross :
    look { poke (program [0xB9#8, 0xFF#8, 0x20#8]) 0x2100#16 0xC0#8 with y := 0x01#8 } viewA =
      some (5, 0x0203#16, 0xC0#8, false, true) := by decide
/-- V13. -/
theorem test_lda_absolute_y_top :
    look { poke (program [0xB9#8, 0xF0#8, 0xFF#8]) 0xFFFF#16 0x11#8 with y := 0x0F#8 } viewA =
      some (4, 0x0203#16, 0x11#8, false, false) := by decide
/-- V15. -/
theorem test_lda_indirect_x_wraps :
    look { poke (poke (program [0xA1#8, 0xF0#8]) 0x0011#16 0x30#8) 0x3000#16 0x99#8 with x := 0x20#8 } viewA =
      some (6, 0x0202#16, 0x99#8, false, true) := by decide
/-- V16, with the pointer wrap. -/
theorem test_lda_indirect_x_pointer_wraps :
    look (poke (poke (poke (poke (program [0xA1#8, 0xFF#8]) 0x0000#16 0x40#8)
      0x0100#16 0x50#8) 0x4000#16 0x01#8) 0x5000#16 0x02#8)
      viewA =
      some (6, 0x0202#16, 0x01#8, false, false) := by decide
/-- V17. -/
theorem test_lda_indirect_y_cross :
    look { poke (poke (program [0xB1#8, 0x40#8]) 0x0040#16 0xF0#8) 0x0041#16 0x12#8 with y := 0x20#8 } viewA =
      some (6, 0x0202#16, 0x00#8, true, false) := by decide
/-- V19. -/
theorem test_lda_indirect_y_pointer_wraps :
    look { poke (poke (poke (program [0xB1#8, 0xFF#8]) 0x00FF#16 0x10#8) 0x0000#16 0x40#8) 0x4011#16 0x81#8 with y := 0x01#8 }
      viewA =
      some (5, 0x0202#16, 0x81#8, false, true) := by decide
/-- V21. -/
theorem test_ldx_immediate :
    look (program [0xA2#8, 0x00#8]) viewX =
      some (2, 0x0202#16, 0x00#8, true, false) := by decide
/-- V22. -/
theorem test_ldx_zero_page :
    look (poke (program [0xA6#8, 0x33#8]) 0x0033#16 0x80#8) viewX =
      some (3, 0x0202#16, 0x80#8, false, true) := by decide
/-- V23. -/
theorem test_ldx_zero_page_y_wraps :
    look { poke (program [0xB6#8, 0xF0#8]) 0x0010#16 0x05#8 with y := 0x20#8 } viewX =
      some (4, 0x0202#16, 0x05#8, false, false) := by decide
/-- V24. -/
theorem test_ldx_absolute :
    look (poke (program [0xAE#8, 0x00#8, 0x03#8]) 0x0300#16 0x7F#8) viewX =
      some (4, 0x0203#16, 0x7F#8, false, false) := by decide
/-- V25. -/
theorem test_ldx_absolute_y_cross :
    look { poke (program [0xBE#8, 0x80#8, 0x30#8]) 0x3100#16 0xFE#8 with y := 0x80#8 } viewX =
      some (5, 0x0203#16, 0xFE#8, false, true) := by decide
/-- V27. -/
theorem test_ldy_immediate :
    look (program [0xA0#8, 0xFF#8]) viewY =
      some (2, 0x0202#16, 0xFF#8, false, true) := by decide
/-- V28. -/
theorem test_ldy_zero_page :
    look { program [0xA4#8, 0x00#8] with p := { n := true } } viewY =
      some (3, 0x0202#16, 0x00#8, true, false) := by decide
/-- V29. -/
theorem test_ldy_zero_page_x :
    look { poke (program [0xB4#8, 0x10#8]) 0x0015#16 0x2A#8 with x := 0x05#8 } viewY =
      some (4, 0x0202#16, 0x2A#8, false, false) := by decide
/-- V30. -/
theorem test_ldy_absolute :
    look (poke (program [0xAC#8, 0xFF#8, 0xFF#8]) 0xFFFF#16 0x80#8) viewY =
      some (4, 0x0203#16, 0x80#8, false, true) := by decide
/-- V31. -/
theorem test_ldy_absolute_x_no_cross :
    look { poke (program [0xBC#8, 0x10#8, 0x40#8]) 0x401F#16 0x01#8 with x := 0x0F#8 } viewY =
      some (4, 0x0203#16, 0x01#8, false, false) := by decide
/-- V32. -/
theorem test_ldy_absolute_x_cross :
    look { program [0xBC#8, 0xF1#8, 0x40#8] with x := 0x0F#8 } viewY =
      some (5, 0x0203#16, 0x00#8, true, false) := by decide
/-- V34. -/
theorem test_sta_zero_page_flags_kept :
    look { program [0x85#8, 0x10#8] with a := 0xAB#8, p := { z := true, n := true, c := true } } (viewM 0x0010#16) =
      some (3, 0x0202#16, 0xAB#8, 0x83#8) := by decide
/-- V35. -/
theorem test_sta_zero_page_x_wraps :
    look { program [0x95#8, 0xF0#8] with a := 0xAB#8, x := 0x20#8 } (viewM 0x0010#16) =
      some (4, 0x0202#16, 0xAB#8, 0x00#8) := by decide
/-- V36. -/
theorem test_sta_absolute_zero_sets_no_flag :
    look (poke (program [0x8D#8, 0x00#8, 0x03#8]) 0x0300#16 0x55#8) (viewM 0x0300#16) =
      some (4, 0x0203#16, 0x00#8, 0x00#8) := by decide
/-- V52. -/
theorem test_sta_absolute_own_operand :
    look { program [0x8D#8, 0x01#8, 0x02#8] with a := 0xEE#8 } (viewM 0x0201#16) =
      some (4, 0x0203#16, 0xEE#8, 0x00#8) := by decide
/-- V37. -/
theorem test_sta_absolute_x_no_cross :
    look { program [0x9D#8, 0x00#8, 0x10#8] with a := 0x11#8, x := 0x01#8 } (viewM 0x1001#16) =
      some (5, 0x0203#16, 0x11#8, 0x00#8) := by decide
/-- V38. -/
theorem test_sta_absolute_x_cross :
    look { program [0x9D#8, 0xFF#8, 0x12#8] with a := 0x11#8, x := 0x01#8 } (viewM 0x1300#16) =
      some (5, 0x0203#16, 0x11#8, 0x00#8) := by decide
/-- V40. -/
theorem test_sta_absolute_y :
    look { program [0x99#8, 0xFF#8, 0x20#8] with a := 0x22#8, y := 0x01#8 } (viewM 0x2100#16) =
      some (5, 0x0203#16, 0x22#8, 0x00#8) := by decide
/-- V41. -/
theorem test_sta_indirect_x :
    look { poke (program [0x81#8, 0x20#8]) 0x0025#16 0x30#8 with a := 0x33#8, x := 0x04#8 } (viewM 0x3000#16) =
      some (6, 0x0202#16, 0x33#8, 0x00#8) := by decide
/-- V42. -/
theorem test_sta_indirect_x_pointer_wraps :
    look { poke (program [0x81#8, 0xFF#8]) 0x0000#16 0x40#8 with a := 0x33#8 } (viewM 0x4000#16) =
      some (6, 0x0202#16, 0x33#8, 0x00#8) := by decide
/-- V43. -/
theorem test_sta_indirect_y_no_cross :
    look { poke (program [0x91#8, 0x40#8]) 0x0041#16 0x20#8 with a := 0x44#8 } (viewM 0x2000#16) =
      some (6, 0x0202#16, 0x44#8, 0x00#8) := by decide
/-- V44. -/
theorem test_sta_indirect_y_cross :
    look { poke (poke (program [0x91#8, 0x40#8]) 0x0040#16 0xF0#8) 0x0041#16 0x12#8 with a := 0x44#8, y := 0x20#8 }
      (viewM 0x1310#16) =
      some (6, 0x0202#16, 0x44#8, 0x00#8) := by decide
/-- V47. -/
theorem test_stx_zero_page :
    look { program [0x86#8, 0x10#8] with x := 0x80#8 } (viewM 0x0010#16) =
      some (3, 0x0202#16, 0x80#8, 0x00#8) := by decide
/-- V45. -/
theorem test_stx_zero_page_y_wraps :
    look { program [0x96#8, 0xFF#8] with x := 0x80#8, y := 0x02#8 } (viewM 0x0001#16) =
      some (4, 0x0202#16, 0x80#8, 0x00#8) := by decide
/-- V48. -/
theorem test_stx_absolute :
    look { program [0x8E#8, 0x00#8, 0x04#8] with x := 0x80#8 } (viewM 0x0400#16) =
      some (4, 0x0203#16, 0x80#8, 0x00#8) := by decide
/-- V49. -/
theorem test_sty_zero_page :
    look { program [0x84#8, 0x10#8] with y := 0x7F#8 } (viewM 0x0010#16) =
      some (3, 0x0202#16, 0x7F#8, 0x00#8) := by decide
/-- V50. -/
theorem test_sty_zero_page_x_wraps :
    look { program [0x94#8, 0x80#8] with y := 0x7F#8, x := 0xFF#8 } (viewM 0x007F#16) =
      some (4, 0x0202#16, 0x7F#8, 0x00#8) := by decide
/-- V51. -/
theorem test_sty_absolute_own_operand :
    look { program [0x8C#8, 0x01#8, 0x02#8] with y := 0x99#8 } (viewM 0x0201#16) =
      some (4, 0x0203#16, 0x99#8, 0x00#8) := by decide
/-- V53. -/
theorem test_jsr_stack_wraps :
    look { program [0x20#8, 0x00#8, 0x80#8] with sp := 0x01#8 }
      (fun t => (1 - t.remaining, t.pc, t.sp, t.memRead 0x0101#16, t.memRead 0x0100#16)) =
      some (6, 0x8000#16, 0xFF#8, 0x02#8, 0x02#8) := by decide
/-- V55: the return address is PC - 1 modulo 65536. -/
theorem test_jsr_return_address_wraps :
    look ({ State.reset with pc := 0xFFFD#16, sp := 0xFF#8 }.writeBytes 0xFFFD#16 [0x20#8, 0x34#8, 0x12#8])
      (fun t => (t.pc, t.sp, t.memRead 0x01FF#16, t.memRead 0x01FE#16)) =
      some (0x1234#16, 0xFD#8, 0xFF#8, 0xFF#8) := by decide

/-! ## Fetch, faults, reset, host -/

/-- V4: PC wraps through 0x0000. -/
theorem test_pc_wraps :
    look (poke (poke { State.reset with pc := 0xFFFF#16 } 0xFFFF#16 0xA9#8) 0x0000#16 0x42#8)
      (fun t => (t.pc, t.a)) = some (0x0001#16, 0x42#8) := by decide
/-- V10: no byte is written, and the record holds mode, base, index and the opcode's address. -/
theorem test_load_overflow :
    look { program [0xBD#8, 0xFF#8, 0xFF#8] with x := 0x01#8 } viewF =
      some (.faulted, some (.addressOverflow .absoluteX 0xFFFF#16 0x01#8 0x0200#16),
        (program [0xBD#8, 0xFF#8, 0xFF#8]).mem) := by decide
/-- V46. -/
theorem test_store_overflow :
    look { poke (poke (program [0x91#8, 0x40#8]) 0x0040#16 0xF0#8) 0x0041#16 0xFF#8 with y := 0x10#8 }
      (fun t => (t.mode, t.fault)) =
      some (.faulted, some (.addressOverflow .indirectY 0xFFF0#16 0x10#8 0x0200#16)) := by decide
/-- V61. -/
theorem test_illegal_opcode :
    look (program [0xFF#8]) (fun t => (t.pc, t.remaining, t.mode, t.fault)) =
      some (0x0201#16, 0, .faulted, some (.unsupportedOpcode 0xFF#8 0x0200#16)) := by decide
/-- V62: with no budget the illegal opcode is never fetched. -/
theorem test_no_budget_no_fetch :
    step ((program [0xFF#8]).startCall 0) = .next { (program [0xFF#8]).startCall 0 with mode := .done, inCall := false } := rfl
/-- 60_exceptions R204: after the entry the call has ended with the record. -/
theorem test_faulted_reports :
    step { State.reset with mode := .faulted, fault := some (.unsupportedOpcode 0x00#8 0xFFFC#16) } =
      .fault (.engineFault (.unsupportedOpcode 0x00#8 0xFFFC#16)) := rfl
/-- Log entry 10: a state that is no boundary is refused. -/
theorem test_executing_refused : step { State.reset with mode := .executing } = .refused .notAtBoundary := rfl
/-- V70. -/
theorem test_cpu_reset :
    (State.cpuReset { program [0xA9#8] with a := 0x11#8, sp := 0x22#8, p := { c := true, n := true } }) =
      { State.reset with mem := (program [0xA9#8]).mem } := by decide
/-- V71. -/
theorem test_memory_reset : (program [0xA9#8, 0x84#8]).memoryReset = { State.reset with pc := 0x0200#16 } := by decide
/-- V70 at reset: the packed status is 0 (V69), PC the address itself (V72). -/
theorem test_reset_snapshot :
    State.reset.snapshot = ⟨0xFFFC#16, 0x00#8, 0x00#8, 0x00#8, 0x00#8, 0x00#8⟩ := by decide
/-- 10_state R32: bit 7 is N, bit 0 is C, bit 5 reads 0 and holds no flag. -/
theorem test_status_pack :
    Status.pack { n := true, c := true } = 0x81#8 ∧ Status.pack { v := true, b := true } = 0x50#8 ∧
    (Status.unpack 0xFF#8).pack = 0xDF#8 := by decide
/-- 20_memory R52: writing what an unlisted address reads as removes the cell. -/
theorem test_memory_canonical :
    Memory.write (Memory.write [] 0x10 0x01#8) 0x10 0x00#8 = [] ∧ Memory.wf [(0x10, 0x00#8)] = false ∧
    Memory.wf [(0x11, 0x01#8), (0x10, 0x01#8)] = false ∧ Memory.wf [(0x10000, 0x01#8)] = false := by decide
/-- 60_exceptions R203: the codes of the two records. -/
theorem test_fault_codes :
    (FaultRecord.unsupportedOpcode 0xFF#8 0x0200#16).code = 1 ∧
    (FaultRecord.addressOverflow .absoluteX 0xFFFF#16 0x01#8 0x0200#16).code = 2 := by decide
/-- 70_reset R227: at the last boundary of a call, before it has returned, CPU reset is refused. -/
theorem test_host_refused_at_last_boundary :
    hostAct .cpuReset (((State.reset.writeBytes 0xFFFC#16 [0xA9#8, 0x84#8]).startCall 1).runCall 1) =
      .refused .hostDuringCall := rfl
/-- S1: `execute(2)` returns Ok(2). -/
theorem test_execute_result :
    ((State.reset.writeBytes 0xFFFC#16 [0xA9#8, 0x84#8]).execute 2).result = some (.ok 2) := by decide

/-! ## Witnesses: the hypotheses of each obligation can be met, at the values where its clauses meet -/

/-- A call of one cycle about to run `bytes` at 0x0200. -/
def ready (bytes : List Byte) : State := (program bytes).startCall 1

theorem witness_LoadAbsoluteIndexedResult :
    let s : State := { State.reset with x := 0x0F#8, y := 0x10#8 }
    (Expected.word 0xF0#8 0xFF#8 + s.x.toNat ≤ 0xFFFF ∧ Expected.word 0xF0#8 0xFF#8 + s.x.toNat = 0xFFFF) ∧
    (0xFFFF < Expected.word 0xF0#8 0xFF#8 + s.y.toNat ∧ Expected.word 0xF0#8 0xFF#8 + s.y.toNat = 0x10000) ∧
    (Expected.word 0xEF#8 0xFF#8 + s.y.toNat ≤ 0xFFFF ∧ 0xFFFF < Expected.word 0xF1#8 0xFF#8 + s.x.toNat) := by
  decide

/-- A pointer 0xFFF0 in the zero page at 0x40. -/
def pointing (y : Byte) : State := { poke (poke State.reset 0x0040#16 0xF0#8) 0x0041#16 0xFF#8 with y := y }

theorem witness_LoadIndirectYResult :
    Expected.pointer (pointing 0x0F#8) 0x40 + (pointing 0x0F#8).y.toNat ≤ 0xFFFF ∧
    0xFFFF < Expected.pointer (pointing 0x10#8) 0x40 + (pointing 0x10#8).y.toNat := by decide

theorem witness_StoreAbsoluteIndexedResult :
    let s : State := { State.reset with x := 0x01#8, y := 0x02#8 }
    (Expected.word 0xFE#8 0xFF#8 + s.x.toNat ≤ 0xFFFF ∧ 0xFFFF < Expected.word 0xFE#8 0xFF#8 + s.y.toNat) ∧
    (Expected.word 0xFD#8 0xFF#8 + s.y.toNat ≤ 0xFFFF ∧ 0xFFFF < Expected.word 0xFF#8 0xFF#8 + s.x.toNat) := by decide

theorem witness_StoreIndirectYResult :
    Expected.pointer (pointing 0x0F#8) 0x40 + (pointing 0x0F#8).y.toNat = 0xFFFF ∧
    Expected.pointer (pointing 0x10#8) 0x40 + (pointing 0x10#8).y.toNat = 0x10000 := by decide

theorem witness_JsrTargetOverwriteResult : Memory.wf (ready [0x20#8, 0x00#8, 0x80#8]).mem = true := by decide

theorem witness_LoadFrame :
    (Instr.ldaImmediate 0x84#8).form.effect = .load ∧ (Instr.ldaImmediate 0x84#8).form.sel ≠ some .registerX ∧
    ∃ t, exec (.ldaImmediate 0x84#8) State.reset = .next t ∧ t.mode ≠ .faulted := ⟨rfl, by decide, _, rfl, by decide⟩

theorem witness_StoreFrame :
    Memory.wf State.reset.mem = true ∧ (Instr.staZeroPage 0x10#8).form.effect = .store ∧
    (Instr.staZeroPage 0x10#8).form.sel = some .accumulator ∧
    located (.staZeroPage 0x10#8) State.reset = some (.addr 0x0010#16) ∧ 0x11 ≠ (0x0010#16).toNat ∧
    ∃ t, exec (.staZeroPage 0x10#8) State.reset = .next t ∧ t.mode ≠ .faulted :=
  ⟨rfl, rfl, rfl, rfl, by decide, _, rfl, by decide⟩

/-- SP is 0, so the second byte wraps to 0x01FF; 0x0101 is neither. -/
theorem witness_JsrFrame :
    Memory.wf State.reset.mem = true ∧ (∃ t, exec (.jsr 0x8000#16) State.reset = .next t) ∧
    0x0101 ≠ 0x0100 + State.reset.sp.toNat ∧ 0x0101 ≠ 0x0100 + (State.reset.sp.toNat + 255) % 256 :=
  ⟨rfl, ⟨_, rfl⟩, by decide, by decide⟩

/-- A store that completes, and a store that overflows. -/
theorem witness_OnlyWrittenBytesChange :
    (Memory.wf State.reset.mem = true ∧ (∃ t, exec (.staZeroPage 0x10#8) State.reset = .next t) ∧
      0x11 ∉ writtenAddrs (.staZeroPage 0x10#8) State.reset) ∧
    (Memory.wf (pointing 0x10#8).mem = true ∧ (∃ t, exec (.staIndirectY 0x40#8) (pointing 0x10#8) = .next t) ∧
      0 ∉ writtenAddrs (.staIndirectY 0x40#8) (pointing 0x10#8)) :=
  ⟨⟨rfl, ⟨_, rfl⟩, by decide⟩, by decide, ⟨_, rfl⟩, by decide⟩

theorem witness_FlagOutcomes :
    (∀ v ∈ [0x00#8, 0x01#8, 0x7F#8, 0x80#8, 0xFF#8],
      ∃ t, exec (.ldxImmediate v) State.reset = .next t ∧ t.mode ≠ .faulted ∧ t.reg .registerX = v) ∧
    ((Instr.ldxImmediate 0x00#8).form.effect = .load ∧ (Instr.ldxImmediate 0x00#8).form.sel = some .registerX) ∧
    ((Instr.stxZeroPage 0x10#8).form.effect ≠ .load ∧
      ∃ t, exec (.stxZeroPage 0x10#8) State.reset = .next t ∧ t.mode ≠ .faulted) :=
  ⟨fun _ _ => ⟨_, rfl, nofun, rfl⟩, ⟨rfl, rfl⟩, by decide, _, rfl, by decide⟩

theorem witness_PcAfterInstruction :
    ((Instr.ldaImmediate 0x84#8).form.effect ≠ .jsr ∧
      ∃ t, exec (.ldaImmediate 0x84#8) State.reset = .next t ∧ t.mode ≠ .faulted) ∧
    ∃ t, exec (.jsr 0x8000#16) State.reset = .next t ∧ t.mode ≠ .faulted :=
  ⟨⟨by decide, _, rfl, by decide⟩, _, rfl, by decide⟩

/-- With the page crossed by one, and not. -/
theorem witness_CyclesOfInstruction :
    let s : State := { State.reset with x := 0x01#8 }
    (∃ t, exec (.ldaAbsoluteX 0x12FF#16) s = .next t ∧ t.mode ≠ .faulted) ∧
    Expected.extraCycle (.ldaAbsoluteX 0x12FF#16) s = 1 ∧ Expected.extraCycle (.ldaAbsoluteX 0x12FE#16) s = 0 :=
  ⟨⟨_, rfl, by decide⟩, by decide, by decide⟩

theorem witness_OverflowExactlyWhenSumExceeds :
    SumFits (.staIndirectY 0x40#8) (pointing 0x0F#8) ∧ ¬ SumFits (.staIndirectY 0x40#8) (pointing 0x10#8) := by
  unfold SumFits; decide

/-- STA $0203 at 0x0200 stores to the next opcode. -/
theorem witness_StoredByteIsFetched :
    let s := ready [0x8D#8, 0x03#8, 0x02#8]
    Memory.wf s.mem = true ∧ (Instr.staAbsolute 0x0203#16).form.effect = .store ∧
    (Instr.staAbsolute 0x0203#16).form.sel = some .accumulator ∧
    ∃ t, exec (.staAbsolute 0x0203#16) s = .next t ∧ t.mode ≠ .faulted ∧
      located (.staAbsolute 0x0203#16) s = some (.addr t.pc) :=
  ⟨by decide, rfl, rfl, _, rfl, by decide, by decide⟩

theorem witness_DecodeAcceptsOnlyEncodings :
    decode [0xA9#8, 0x84#8, 0x00#8] = .ok (.ldaImmediate 0x84#8, [0x00#8]) := by decide

theorem witness_WellFormedFormsAreDecoded :
    (Instr.jsr 0x8000#16).form.wellFormed = true ∧ decodeOpcode 0x20#8 = some (Instr.jsr 0x8000#16).form := by decide

theorem witness_MemoryReadAfterWrite : Memory.wf (ready [0xA9#8, 0x84#8]).mem = true := by decide

theorem witness_MemoryFormIsCanonical :
    Memory.wf (ready [0xA9#8]).mem = true ∧
    (∀ a, Memory.read (ready [0xA9#8]).mem a = Memory.read (Memory.write [] 0x0200 0xA9#8) a) :=
  ⟨by decide, fun _ => rfl⟩

theorem witness_ResetsBetweenCalls : (program [0xA9#8]).callInProgress = false := by decide

theorem witness_HostActsOnlyBetweenCalls :
    (ready [0xA9#8]).callInProgress = true ∧ ((program [0xA9#8]).startCall 0).callInProgress = true ∧
    State.reset.callInProgress = false ∧
    State.callInProgress { State.reset with mode := .executing } = true ∧
    State.callInProgress { State.reset with mode := .done } = false := by decide

theorem witness_CallEntry :
    State.callInProgress { State.reset with mode := .faulted, fault := some (.unsupportedOpcode 0#8 0#16) } = false := by
  decide

/-- The call of S1 after its one instruction has used the whole budget: at its last boundary the host is still
refused. -/
theorem witness_CallLastsUntilItEnds :
    let t := ((State.reset.writeBytes 0xFFFC#16 [0xA9#8, 0x84#8]).startCall 1).runCall 1
    t.mode = .idle ∧ t.remaining = -1 ∧ ¬ t.CallEnded := by
  refine ⟨by decide, by decide, ?_⟩; unfold State.CallEnded; decide

/-- Log entry 9: from reset, with no call, a step leaves the state alone. -/
theorem witness_EngineIdleOutsideCalls :
    State.reset.callInProgress = false ∧ step State.reset = .next State.reset := ⟨by decide, rfl⟩

theorem witness_StepRunsDecodedInstruction :
    (ready [0xA9#8, 0x84#8]).mode = .idle ∧ (ready [0xA9#8, 0x84#8]).inCall = true ∧ 0 < (ready [0xA9#8, 0x84#8]).remaining ∧
    decode (ready [0xA9#8, 0x84#8]).fetchBytes = .ok (.ldaImmediate 0x84#8, [0x00#8]) := by decide

theorem witness_BudgetTestedBeforeFetch :
    ((program [0xA9#8]).startCall 0).mode = .idle ∧ ((program [0xA9#8]).startCall 0).inCall = true ∧ ((program [0xA9#8]).startCall 0).remaining ≤ 0 ∧
    ((program [0xA9#8]).startCall (-1)).remaining ≤ 0 ∧ 0 < ((program [0xA9#8]).startCall 1).remaining := by decide

theorem witness_IllegalOpcodeFaults :
    ((ready [0xFF#8]).mode = .idle ∧ (ready [0xFF#8]).inCall = true ∧ 0 < (ready [0xFF#8]).remaining ∧ (ready [0xFF#8]).fault = none ∧
      decodeOpcode (Memory.read (ready [0xFF#8]).mem (ready [0xFF#8]).pc.toNat) = none) ∧
    (decodeOpcode (Memory.read (ready [0xA9#8]).mem (ready [0xA9#8]).pc.toNat) ≠ none ∧
      ∃ t, step (ready [0xA9#8]) = .next t) := ⟨by decide, by decide, _, rfl⟩

theorem witness_FaultEndsTheCall :
    let s : State := { State.reset with mode := .faulted, fault := some (.unsupportedOpcode 0xFF#8 0x0200#16) }
    s.mode = .faulted ∧ s.fault = some (.unsupportedOpcode 0xFF#8 0x0200#16) := by decide

theorem witness_StepMatchesPseudocode : (ready [0xA9#8]).mode = .idle ∧ (ready [0xA9#8]).inCall = true := by decide

theorem witness_StepKeepsInvariant : (ready [0xA9#8]).Inv ∧ ∃ t, step (ready [0xA9#8]) = .next t :=
  ⟨⟨by decide, by decide, by decide, by decide⟩, _, rfl⟩

/-- The counter of a call at both ends of its range. -/
theorem witness_StepKeepsBudgetInvariant :
    (ready [0xA9#8]).BudgetInv ∧ (∃ t, step (ready [0xA9#8]) = .next t) ∧
    State.BudgetInv { ready [0xA9#8] with remaining := -5, mode := .done } :=
  ⟨⟨by decide, by decide, by decide⟩, ⟨_, rfl⟩, ⟨by decide, by decide, by decide⟩⟩

theorem witness_HostKeepsInvariants :
    State.reset.Inv ∧ State.reset.BudgetInv ∧ ∃ t, hostAct (.execute 2) State.reset = .next t :=
  ⟨⟨by decide, by decide, by decide, by decide⟩, ⟨by decide, by decide, by decide⟩, _, rfl⟩

theorem witness_PlaceholderFlagsKept :
    ∃ t, step (ready [0xA9#8]) = .next t ∧ t.draws = (ready [0xA9#8]).draws := ⟨_, rfl, rfl⟩

theorem witness_PlaceholderFlagsChangeNoResult :
    ∃ t, step (ready [0x20#8]) = .next t ∧ t.draws = (ready [0x20#8]).draws := ⟨_, rfl, rfl⟩

theorem witness_OnlyJsrMovesStackPointer :
    ∃ t, step (ready [0x20#8]) = .next t ∧ t.draws = (ready [0x20#8]).draws ∧ t.sp ≠ (ready [0x20#8]).sp :=
  ⟨_, rfl, rfl, by decide⟩

theorem witness_OnlyStoresAndJsrWriteMemory :
    let s : State := { ready [0x85#8, 0x10#8] with a := 0x01#8 }
    ∃ t, step s = .next t ∧ t.mem ≠ s.mem := ⟨_, rfl, by decide⟩

theorem witness_ExecuteEnds : (2 : Int) ≤ 2 * (1 : Nat) ∧ (0 : Int) ≤ 2 * (0 : Nat) := by decide

theorem witness_CyclesUsedBounds :
    ((0 : Int) ≤ 0) ∧ ((0 : Int) < 1) ∧ ((program [0xA9#8, 0x84#8]).execute 1).mode = .done := by decide

end Sys2Proof.Tests
end

/-! ## Calls of `execute` and the host (00_scope R7): what every instruction does to the engine control, and the
induction over the steps of a call -/

namespace Sys2Proof.Machine

/-- The engine control after an instruction that completes from `s` (40 R91, R95): a boundary of the same call, 2 to 6
cycles charged, no fault taken and no free value drawn. -/
structure CompletesFrom (s t : State) : Prop where
  mode : t.mode = .idle
  inCall : t.inCall = s.inCall
  requested : t.requested = s.requested
  charged : ∃ k : Int, 2 ≤ k ∧ k ≤ 6 ∧ t.remaining = s.remaining - k
  fault : t.fault = s.fault
  draws : t.draws = s.draws

/-- Every instruction completes or takes AddressOverflow; none stops the machine (40 R95, 41_addressing_modes R114). -/
theorem exec_cases (i : Instr) (s : State) :
    (∃ t, exec i s = .next t ∧ CompletesFrom s t) ∨
    (∃ mode base index, exec i s = .next (s.raiseAddressOverflow mode base index s.pc)) := by
  cases he : i.form.effect with
  | load =>
    obtain ⟨sel, o, -, -, hexec⟩ := exec_load he
    rw [hexec s]
    obtain ⟨v, n, k, hk, hk', h⟩ | overflow := load_cases sel o s
    · cases sel <;> exact .inl ⟨_, h, rfl, rfl, rfl, ⟨k, hk, hk', rfl⟩, rfl, rfl⟩
    · exact .inr overflow
  | store =>
    obtain ⟨sel, o, -, -, hexec⟩ := exec_store he
    rw [hexec s]
    obtain ⟨ea, n, k, hk, hk', -, h⟩ | ⟨mode, base, index, -, h⟩ := store_cases sel o s
    · exact .inl ⟨_, h, rfl, rfl, rfl, ⟨k, hk, hk', rfl⟩, rfl, rfl⟩
    · exact .inr ⟨mode, base, index, h⟩
  | jsr =>
    obtain ⟨target, rfl⟩ := jsr_of_effect he
    exact .inl ⟨_, execJsr_eq target s, rfl, rfl, rfl, ⟨6, by omega, by omega, rfl⟩, rfl, rfl⟩

/-- What every step keeps holds wherever the steps of a call have led. -/
theorem State.runCall_induction {P : State → Prop} (keeps : ∀ s t, P s → step s = .next t → P t) (k : Nat) {s : State}
    (hs : P s) : P (s.runCall k) := by
  induction k generalizing s with
  | zero => exact hs
  | succ k ih =>
    unfold State.runCall
    split
    next t ht =>
      have hP : P t := keeps s t hs ht
      split
      · exact ih hP
      · exact hP
    next => exact hs

/-- A state of one call: at a boundary with the call in progress, or ended with the call over (40 R101). -/
def State.RunningOrEnded (s : State) : Prop :=
  s.mode = .idle ∧ s.inCall = true ∨ s.CallEnded ∧ s.inCall = false

theorem State.startCall_runningOrEnded (s : State) (n : Int) : (s.startCall n).RunningOrEnded := .inl ⟨rfl, rfl⟩

/-- A step goes to the next boundary of the same call or ends the call, and from an ended call it goes nowhere. -/
theorem step_keeps_runningOrEnded (s t : State) (hs : s.RunningOrEnded) (h : step s = .next t) :
    t.RunningOrEnded := by
  obtain ⟨-, -, -, hstep⟩ | ⟨-, hcall, -, i, -, -, hstep⟩ | ⟨-, -, -, e, -, hstep⟩ | ⟨-, hstep⟩ | ⟨-, r, -, hstep⟩ |
    hstep := step_cases s <;> rw [hstep] at h
  · cases h
    exact .inr ⟨.inl rfl, rfl⟩
  · obtain ⟨u, hexec, hu⟩ | ⟨mode, base, index, hexec⟩ := exec_cases i s <;> rw [hexec] at h <;> cases h
    · exact .inl ⟨hu.mode, hu.inCall.trans hcall⟩
    · exact .inr ⟨.inr rfl, rfl⟩
  · cases h
    exact .inr ⟨.inr rfl, rfl⟩
  · cases h
    exact hs
  · cases h
  · cases h

theorem State.RunningOrEnded.callInProgress_iff {s : State} (hs : s.RunningOrEnded) :
    s.callInProgress = true ↔ ¬ s.CallEnded := by
  obtain ⟨hmode, hcall⟩ | ⟨hmode | hmode, hcall⟩ := hs <;>
    simp [State.callInProgress, State.CallEnded, hmode, hcall]

theorem hostAct_of_callInProgress {s : State} (h : s.callInProgress = true) (act : HostAction) :
    hostAct act s = .refused .hostDuringCall := if_pos h

/-- Settles O41: every state of a call is running or ended, by induction over its steps. -/
theorem callLastsUntilItEnds : Obligations.CallLastsUntilItEnds := by
  intro s n k t
  have ht : t.RunningOrEnded := State.runCall_induction step_keeps_runningOrEnded k (s.startCall_runningOrEnded n)
  exact ⟨ht.callInProgress_iff, fun hrunning => hostAct_of_callInProgress (ht.callInProgress_iff.mpr hrunning)⟩

theorem State.inCall_of_not_callInProgress {s : State} (h : s.callInProgress = false) : s.inCall = false :=
  (Bool.or_eq_false_iff.mp h).1

/-- Settles O42: the cases of a step that change the state all need a call in progress. -/
theorem engineIdleOutsideCalls : Obligations.EngineIdleOutsideCalls := by
  intro s t hs h
  have hcall : ¬ s.inCall = true := by simp [State.inCall_of_not_callInProgress hs]
  obtain ⟨-, hc, -⟩ | ⟨-, hc, -⟩ | ⟨-, hc, -⟩ | ⟨-, hstep⟩ | ⟨-, r, -, hstep⟩ | hstep := step_cases s
  · exact absurd hc hcall
  · exact absurd hc hcall
  · exact absurd hc hcall
  · rw [hstep] at h
    cases h
    rfl
  · rw [hstep] at h
    cases h
  · rw [hstep] at h
    cases h

end Sys2Proof.Machine

/-! ## The state as a whole (10_state): what one instruction and one step can leave, each said once, and the rules that
hold of every step -/

namespace Sys2Proof.Machine

/-! ### The states an instruction and a step can leave -/

@[simp] theorem State.loadInto_sp (s : State) (sel : Sel) (v : Byte) : (s.loadInto sel v).sp = s.sp := by
  cases sel <;> rfl
@[simp] theorem State.loadInto_p (s : State) (sel : Sel) (v : Byte) : (s.loadInto sel v).p = s.p.updZN v := by
  cases sel <;> rfl
@[simp] theorem State.loadInto_mem (s : State) (sel : Sel) (v : Byte) : (s.loadInto sel v).mem = s.mem := by
  cases sel <;> rfl

/-- A step that draws no free value has not taken AddressOverflow. -/
theorem State.raiseAddressOverflow_draws_ne (s : State) (mode : IndexedMode) (base : Addr) (index : Byte)
    (addr : Addr) : (s.raiseAddressOverflow mode base index addr).draws ≠ s.draws :=
  Nat.succ_ne_self s.draws

/-- The states instruction `i` can leave from `s`: those of a load (42_loads R141), of a store (43_stores R170), of JSR
(44_jsr R190) and of an AddressOverflow (60_exceptions R204). -/
inductive ExecResult (i : Instr) (s : State) : State → Prop where
  | load (sel : Sel) (v : Byte) (n : Nat) (k : Int) : i.form.effect = .load →
      ExecResult i s (State.loadInto { s with pc := s.pc + BitVec.ofNat 16 n, remaining := s.remaining - k } sel v)
  | store (sel : Sel) (ea : Addr) (n : Nat) (k : Int) : i.form.effect = .store →
      ExecResult i s { s with
        pc := s.pc + BitVec.ofNat 16 n, remaining := s.remaining - k, mode := .idle,
        mem := Memory.write s.mem ea.toNat (s.reg sel) }
  | jsr (target : Addr) : i = .jsr target →
      ExecResult i s { s with
        pc := target, remaining := s.remaining - 6, mode := .idle, sp := s.sp - 2#8,
        mem := Memory.write
          (Memory.write s.mem (0x0100#16 + zext16 s.sp).toNat (highByte (s.pc + 2#16)))
          (0x0100#16 + zext16 (s.sp - 1#8)).toNat (lowByte (s.pc + 2#16)) }
  | overflow (mode : IndexedMode) (base : Addr) (index : Byte) :
      ExecResult i s (s.raiseAddressOverflow mode base index s.pc)

theorem exec_result {i : Instr} {s t : State} (h : exec i s = .next t) : ExecResult i s t := by
  cases he : i.form.effect with
  | load =>
    obtain ⟨sel, o, -, -, hexec⟩ := exec_load he
    rw [hexec s] at h
    obtain ⟨v, n, k, -, -, hload⟩ | ⟨mode, base, index, hload⟩ := load_cases sel o s <;> rw [hload] at h <;> cases h
    · exact .load sel v n k he
    · exact .overflow mode base index
  | store =>
    obtain ⟨sel, o, -, -, hexec⟩ := exec_store he
    rw [hexec s] at h
    obtain ⟨ea, n, k, -, -, -, hstore⟩ | ⟨mode, base, index, -, hstore⟩ := store_cases sel o s <;>
      rw [hstore] at h <;> cases h
    · exact .store sel ea n k he
    · exact .overflow mode base index
  | jsr =>
    obtain ⟨target, rfl⟩ := jsr_of_effect he
    cases (execJsr_eq target s).symm.trans h
    exact .jsr target rfl

/-- The next states of a step from `s`, each with the condition it is taken under (40 R93 to R96). -/
inductive StepResult (s : State) : State → Prop where
  | callEnded : s.mode = .idle → s.inCall = true → s.remaining ≤ 0 → StepResult s s.endCall
  | instruction {t : State} (i : Instr) (rest : List Byte) : s.mode = .idle → s.inCall = true → 0 < s.remaining →
      decode s.fetchBytes = .ok (i, rest) → exec i s = .next t → StepResult s t
  | unsupportedOpcode (e : DecodeError) : s.mode = .idle → s.inCall = true → 0 < s.remaining →
      decode s.fetchBytes = .error e → StepResult s s.raiseUnsupportedOpcode
  | outsideCall : s.mode = .done ∨ s.mode = .idle ∧ s.inCall = false → StepResult s s

theorem step_result {s t : State} (h : step s = .next t) : StepResult s t := by
  obtain ⟨hm, hc, hr, hstep⟩ | ⟨hm, hc, hr, i, rest, hd, hstep⟩ | ⟨hm, hc, hr, e, hd, hstep⟩ | ⟨hout, hstep⟩ |
    ⟨-, r, -, hstep⟩ | hstep := step_cases s <;> rw [hstep] at h
  · cases h
    exact .callEnded hm hc hr
  · exact .instruction i rest hm hc hr hd h
  · cases h
    exact .unsupportedOpcode e hm hc hr hd
  · cases h
    exact .outsideCall hout
  · cases h
  · cases h

/-- The conditions of `StepResult` decide the step. -/
theorem step_eq_of_result {s t : State} (h : StepResult s t) : step s = .next t := by
  cases h with
  | callEnded hm hc hr => simp [step, State.atBoundary, hm, hc, hr]
  | instruction i rest hm hc hr hd hexec =>
    simp [step, State.atBoundary, State.runInstruction, hm, hc, Int.not_le.mpr hr, hd, hexec]
  | unsupportedOpcode e hm hc hr hd =>
    simp [step, State.atBoundary, State.runInstruction, hm, hc, Int.not_le.mpr hr, hd]
  | outsideCall hout =>
    obtain hm | ⟨hm, hc⟩ := hout
    · simp [step, hm]
    · simp [step, hm, hc]

/-! ### The invariants (10_state R34, R35) -/

theorem exec_keeps_memory_wf {i : Instr} {s t : State} (hs : Memory.wf s.mem = true) (h : exec i s = .next t) :
    Memory.wf t.mem = true := by
  cases exec_result h with
  | load sel v n k => rw [State.loadInto_mem]; exact hs
  | store sel ea n k => exact Memory.wf_write hs ea _
  | jsr target => exact Memory.wf_write (Memory.wf_write hs _ _) _ _
  | overflow mode base index => exact hs

/-- At an instruction boundary no record is kept. -/
theorem State.Inv.fault_eq_none {s : State} (hs : s.Inv) (hm : s.mode = .idle) : s.fault = none := by
  have hnot : ¬ s.fault.isSome = true := fun hf => by simp [hs.record.mpr hf] at hm
  simpa using hnot

/-- Fault entry meets the invariant wherever memory is canonical. -/
theorem State.raise_inv {s : State} {r : FaultRecord} (hmem : Memory.wf (s.raise r).mem = true) : (s.raise r).Inv where
  memory := hmem
  boundary := nofun
  record := by simp
  call := nofun

theorem State.endCall_inv {s : State} (hs : s.Inv) (hm : s.mode = .idle) : s.endCall.Inv where
  memory := hs.memory
  boundary := nofun
  record := by simp [hs.fault_eq_none hm]
  call := nofun

theorem CompletesFrom.inv {s t : State} (h : CompletesFrom s t) (hs : s.Inv) (hm : s.mode = .idle)
    (hmem : Memory.wf t.mem = true) : t.Inv where
  memory := hmem
  boundary := by simp [h.mode]
  record := by simp [h.mode, h.fault, hs.fault_eq_none hm]
  call _ := h.mode

theorem exec_keeps_inv {i : Instr} {s t : State} (hs : s.Inv) (hm : s.mode = .idle) (h : exec i s = .next t) :
    t.Inv := by
  obtain ⟨u, hexec, hu⟩ | ⟨mode, base, index, hexec⟩ := exec_cases i s
  · cases hexec.symm.trans h
    exact hu.inv hs hm (exec_keeps_memory_wf hs.memory h)
  · cases hexec.symm.trans h
    exact State.raise_inv hs.memory

/-- Settles O49, by the cases of a step. -/
theorem stepKeepsInvariant : Obligations.StepKeepsInvariant := by
  intro s t hs h
  cases step_result h with
  | callEnded hm => exact State.endCall_inv hs hm
  | instruction i rest hm _ _ _ hexec => exact exec_keeps_inv hs hm hexec
  | unsupportedOpcode e => exact State.raise_inv hs.memory
  | outsideCall => exact hs

/-- Settles O48. -/
theorem resetHasInvariants : Obligations.ResetHasInvariants where
  left := ⟨Memory.wf_nil, nofun, by decide, nofun⟩
  right := ⟨fun _ _ => rfl, fun _ h => by simp [State.reset] at h, nofun⟩

/-- Settles O37. -/
theorem resetValues : Obligations.ResetValues :=
  ⟨rfl, rfl, rfl, rfl, rfl, ⟨rfl, rfl, rfl, rfl, rfl, rfl, rfl⟩, Memory.read_nil, rfl, rfl, rfl⟩

/-! ### The placeholder flags (10_state R31) -/

/-- An instruction that draws no free value keeps P or sets Z and N from a loaded byte. -/
theorem exec_status {i : Instr} {s t : State} (h : exec i s = .next t) (hd : t.draws = s.draws) :
    t.p = s.p ∨ ∃ v, t.p = s.p.updZN v := by
  cases exec_result h with
  | load sel v n k => exact .inr ⟨v, State.loadInto_p _ sel v⟩
  | store sel ea n k => exact .inl rfl
  | jsr target => exact .inl rfl
  | overflow mode base index => exact absurd hd (s.raiseAddressOverflow_draws_ne _ _ _ _)

/-- Of the steps that draw no free value only an instruction writes P. -/
theorem step_status {s t : State} (h : step s = .next t) (hd : t.draws = s.draws) :
    t.p = s.p ∨ ∃ v, t.p = s.p.updZN v := by
  cases step_result h with
  | callEnded => exact .inl rfl
  | instruction i rest _ _ _ _ hexec => exact exec_status hexec hd
  | unsupportedOpcode e => exact .inl rfl
  | outsideCall => exact .inl rfl

/-- Settles O52: a step keeps P or runs `updZN` on it, which writes Z and N alone. -/
theorem placeholderFlagsKept : Obligations.PlaceholderFlagsKept := by
  intro s t h hd
  obtain hp | ⟨v, hp⟩ := step_status h hd <;> rw [hp] <;> exact ⟨rfl, rfl, rfl, rfl, rfl⟩

/-- The state with C, I, D, B and V as in `q`, all else as it was. -/
def State.withPlaceholders (s : State) (q : Status) : State := { s with p := Expected.withPlaceholders s.p q }

theorem State.loadInto_withPlaceholders (s : State) (q : Status) (sel : Sel) (v : Byte) :
    (s.withPlaceholders q).loadInto sel v = (s.loadInto sel v).withPlaceholders q := by
  cases sel <;> rfl

theorem State.indexed_withPlaceholders (s : State) (q : Status) (ctx : Ctx) (mode : IndexedMode) (base : Addr)
    (index : Byte) : (s.withPlaceholders q).indexed ctx mode base index =
      ((s.indexed ctx mode base index).1, (s.indexed ctx mode base index).2.withPlaceholders q) := by
  simp only [State.indexed]
  by_cases hsum : 0xFFFF < base.toNat + index.toNat
  · simp only [hsum, if_true]
  · simp only [hsum, if_false]
    cases ctx with
    | store => rfl
    | load => cases hcross : pageCross base (base + zext16 index) <;> rfl

/-- The resolver reads no flag (41_addressing_modes R110). -/
theorem State.locate_withPlaceholders (s : State) (q : Status) (ctx : Ctx) (o : MemOperand) :
    (s.withPlaceholders q).locate ctx o = ((s.locate ctx o).1, (s.locate ctx o).2.withPlaceholders q) := by
  cases o with
  | zeroPage z => rfl
  | zeroPageX z => rfl
  | zeroPageY z => rfl
  | absolute a => rfl
  | indirectX z => rfl
  | absoluteX base => exact (s.fetched 2).indexed_withPlaceholders q ctx .absoluteX base s.x
  | absoluteY base => exact (s.fetched 2).indexed_withPlaceholders q ctx .absoluteY base s.y
  | indirectY z =>
    exact ((s.fetched 1).readPtrZP z).2.indexed_withPlaceholders q ctx .indirectY ((s.fetched 1).readPtrZP z).1 s.y

theorem State.locate_draws (s : State) (ctx : Ctx) (o : MemOperand) : (s.locate ctx o).2.draws = s.draws := by
  obtain ⟨k, -, -, ht⟩ := s.locate_state ctx o
  rw [ht]

theorem State.resolve_withPlaceholders (s : State) (q : Status) (ctx : Ctx) (o : Operand) :
    (s.withPlaceholders q).resolve ctx o = ((s.resolve ctx o).1, (s.resolve ctx o).2.withPlaceholders q) := by
  cases o with
  | immediate v => rfl
  | mem o => simp only [State.resolve, State.locate_withPlaceholders]

theorem State.resolve_draws (s : State) (ctx : Ctx) (o : Operand) : (s.resolve ctx o).2.draws = s.draws := by
  cases o with
  | immediate v => exact s.fetched_draws 1
  | mem o => exact s.locate_draws ctx o

section
variable {s t : State} (q : Status)

theorem load_withPlaceholders {sel : Sel} {o : Operand} (h : load sel o s = .next t) (hd : t.draws = s.draws) :
    load sel o (s.withPlaceholders q) = .next (t.withPlaceholders q) := by
  have hresolve : (s.withPlaceholders q).opcodeFetched.resolve .load o = _ :=
    s.opcodeFetched.resolve_withPlaceholders q .load o
  have hdraws := s.opcodeFetched.resolve_draws .load o
  rw [load, hresolve]
  rw [load] at h
  generalize s.opcodeFetched.resolve .load o = result at h hdraws ⊢
  obtain ⟨r, u⟩ := result
  cases r with
  | imm v =>
    cases h
    exact congrArg _ (u.loadInto_withPlaceholders q sel v)
  | loc l =>
    cases l with
    | addr ea =>
      cases h
      exact congrArg _ ((u.charge 1).loadInto_withPlaceholders q sel (u.memRead ea))
    | overflow mode base index =>
      cases h
      exact absurd (hd.trans hdraws.symm) (u.raiseAddressOverflow_draws_ne mode base index s.pc)

theorem store_withPlaceholders {sel : Sel} {o : MemOperand} (h : store sel o s = .next t) (hd : t.draws = s.draws) :
    store sel o (s.withPlaceholders q) = .next (t.withPlaceholders q) := by
  have hlocate : (s.withPlaceholders q).opcodeFetched.locate .store o = _ :=
    s.opcodeFetched.locate_withPlaceholders q .store o
  have hdraws := s.opcodeFetched.locate_draws .store o
  rw [store, hlocate]
  rw [store] at h
  generalize s.opcodeFetched.locate .store o = result at h hdraws ⊢
  obtain ⟨l, u⟩ := result
  cases l with
  | addr ea =>
    cases h
    cases sel <;> rfl
  | overflow mode base index =>
    cases h
    exact absurd (hd.trans hdraws.symm) (u.raiseAddressOverflow_draws_ne mode base index s.pc)

theorem exec_withPlaceholders {i : Instr} (h : exec i s = .next t) (hd : t.draws = s.draws) :
    exec i (s.withPlaceholders q) = .next (t.withPlaceholders q) := by
  cases he : i.form.effect with
  | load =>
    obtain ⟨sel, o, -, -, hexec⟩ := exec_load he
    rw [hexec] at h ⊢
    exact load_withPlaceholders q h hd
  | store =>
    obtain ⟨sel, o, -, -, hexec⟩ := exec_store he
    rw [hexec] at h ⊢
    exact store_withPlaceholders q h hd
  | jsr =>
    obtain ⟨target, rfl⟩ := jsr_of_effect he
    cases (execJsr_eq target s).symm.trans h
    exact execJsr_eq target (s.withPlaceholders q)

end

/-- The next states of a step are the same whatever the placeholder flags, those flags apart. -/
theorem StepResult.withPlaceholders {s t : State} (h : StepResult s t) (q : Status) (hd : t.draws = s.draws) :
    StepResult (s.withPlaceholders q) (t.withPlaceholders q) := by
  cases h with
  | callEnded hm hc hr => exact .callEnded hm hc hr
  | instruction i rest hm hc hr hdec hexec =>
    exact .instruction i rest hm hc hr hdec (exec_withPlaceholders q hexec hd)
  | unsupportedOpcode e hm hc hr hdec => exact .unsupportedOpcode e hm hc hr hdec
  | outsideCall hout => exact .outsideCall hout

/-- Settles O53: no operation of a step reads a placeholder flag, and none but AddressOverflow writes one. -/
theorem placeholderFlagsChangeNoResult : Obligations.PlaceholderFlagsChangeNoResult := by
  intro s t q h hd
  exact step_eq_of_result ((step_result h).withPlaceholders q hd)

/-! ### The stack pointer (10_state R22) -/

theorem opcode_of_instrOf {op b1 b2 : Byte} {i : Instr} (h : instrOf op b1 b2 = some i) : i.opcode = op := by
  unfold instrOf at h
  split at h <;> cases h <;> rfl

/-- The first byte of what decodes is the instruction's opcode (30_encoding R70). -/
theorem opcode_of_decode {op : Byte} {bytes rest : List Byte} {i : Instr}
    (h : decode (op :: bytes) = .ok (i, rest)) : i.opcode = op := by
  simp only [decode] at h
  split at h
  · cases h
  next j hj =>
    split at h
    · cases h
      exact opcode_of_instrOf hj
    · cases h

/-- An instruction that draws no free value and moves SP is JSR (44_jsr R190). -/
theorem exec_sp {i : Instr} {s t : State} (h : exec i s = .next t) (hd : t.draws = s.draws) :
    t.sp = s.sp ∨ (∃ target, i = .jsr target) ∧ t.sp = s.sp - 2#8 := by
  cases exec_result h with
  | load sel v n k => exact .inl (State.loadInto_sp _ sel v)
  | store sel ea n k => exact .inl rfl
  | jsr target hi => exact .inr ⟨⟨target, hi⟩, rfl⟩
  | overflow mode base index => exact absurd hd (s.raiseAddressOverflow_draws_ne _ _ _ _)

/-- Settles O54: of the steps that draw no free value only an instruction writes SP, and it is JSR. -/
theorem onlyJsrMovesStackPointer : Obligations.OnlyJsrMovesStackPointer := by
  intro s t h hd hsp
  cases step_result h with
  | callEnded => exact absurd rfl hsp
  | instruction i rest _ _ _ hdec hexec =>
    obtain hkept | ⟨⟨target, rfl⟩, hmoved⟩ := exec_sp hexec hd
    · exact absurd hkept hsp
    · exact ⟨(opcode_of_decode hdec).symm, by rw [hmoved]; bv_omega⟩
  | unsupportedOpcode e => exact absurd rfl hsp
  | outsideCall => exact absurd rfl hsp

/-! ### Memory has one form (10_state R34) -/

theorem Memory.wfFrom_cons {lo k : Nat} {v : Byte} {rest : Memory} :
    Memory.wfFrom lo ((k, v) :: rest) = true ↔
      lo ≤ k ∧ k < 65536 ∧ v ≠ 0#8 ∧ Memory.wfFrom (k + 1) rest = true := by
  simp [Memory.wfFrom, Memory.unlisted, and_assoc]

theorem Memory.read_cons_self (k : Nat) (v : Byte) (rest : Memory) : Memory.read ((k, v) :: rest) k = v := if_pos rfl

theorem Memory.read_cons_above {k a : Nat} (h : k < a) (v : Byte) (rest : Memory) :
    Memory.read ((k, v) :: rest) a = Memory.read rest a := by
  rw [Memory.read, if_neg (by omega), if_neg (by omega)]

/-- An address that a memory canonical from `lo` on lists is `lo` or above. -/
theorem Memory.le_of_read_ne {lo a : Nat} {m : Memory} (hm : Memory.wfFrom lo m = true)
    (ha : Memory.read m a ≠ 0#8) : lo ≤ a :=
  Nat.le_of_not_lt fun hlt => ha (Memory.read_below hlt hm)

/-- A canonical memory reads as listed at its first address. -/
theorem Memory.read_head_ne {lo k : Nat} {v : Byte} {rest : Memory}
    (hm : Memory.wfFrom lo ((k, v) :: rest) = true) : Memory.read ((k, v) :: rest) k ≠ 0#8 := by
  rw [Memory.read_cons_self]
  exact (Memory.wfFrom_cons.mp hm).2.2.1

/-- The first address of one memory is not below the first address of another that reads the same. -/
theorem Memory.head_le_of_read_eq {lo lo' k k' : Nat} {v v' : Byte} {rest rest' : Memory}
    (hm : Memory.wfFrom lo ((k, v) :: rest) = true) (hm' : Memory.wfFrom lo' ((k', v') :: rest') = true)
    (h : ∀ a, Memory.read ((k, v) :: rest) a = Memory.read ((k', v') :: rest') a) : k' ≤ k := by
  obtain ⟨-, hk', hv', hrest'⟩ := Memory.wfFrom_cons.mp hm'
  have hfrom : Memory.wfFrom k' ((k', v') :: rest') = true := Memory.wfFrom_cons.mpr ⟨le_rfl, hk', hv', hrest'⟩
  exact Memory.le_of_read_ne hfrom (h k ▸ Memory.read_head_ne hm)

theorem Memory.eq_of_read_eq {lo : Nat} {m m' : Memory} (hm : Memory.wfFrom lo m = true)
    (hm' : Memory.wfFrom lo m' = true) (h : ∀ a, Memory.read m a = Memory.read m' a) : m = m' := by
  induction m generalizing lo m' with
  | nil =>
    cases m' with
    | nil => rfl
    | cons c' rest' => exact absurd (h c'.1).symm (Memory.read_head_ne hm')
  | cons c rest ih =>
    obtain ⟨k, v⟩ := c
    cases m' with
    | nil => exact absurd (h k) (Memory.read_head_ne hm)
    | cons c' rest' =>
      obtain ⟨k', v'⟩ := c'
      obtain rfl : k = k' := Nat.le_antisymm
        (Memory.head_le_of_read_eq hm' hm fun a => (h a).symm) (Memory.head_le_of_read_eq hm hm' h)
      obtain rfl : v = v' := by simpa only [Memory.read_cons_self] using h k
      obtain ⟨-, -, -, hrest⟩ := Memory.wfFrom_cons.mp hm
      obtain ⟨-, -, -, hrest'⟩ := Memory.wfFrom_cons.mp hm'
      have htail : ∀ a, Memory.read rest a = Memory.read rest' a := by
        intro a
        obtain ha | ha := Nat.lt_or_ge k a
        · simpa only [Memory.read_cons_above ha] using h a
        · rw [Memory.read_below (Nat.lt_succ_of_le ha) hrest, Memory.read_below (Nat.lt_succ_of_le ha) hrest']
      rw [ih hrest hrest' htail]

/-- Settles O32: by induction on the lists, whose first cells must agree. -/
theorem memoryFormIsCanonical : Obligations.MemoryFormIsCanonical :=
  fun _ _ hm hm' h => Memory.eq_of_read_eq hm hm' h

/-! ### The packed status (10_state R32) -/

/-- The packed byte from bit 0 up: C Z I D B, 0, V N. -/
theorem Status.pack_getLsbD (p : Status) (k : Nat) :
    p.pack.getLsbD k = [p.c, p.z, p.i, p.d, p.b, false, p.v, p.n].getD k false := by
  simp only [Status.pack, BitVec.getLsbD_append]
  match k with
  | 0 | 1 | 2 | 3 | 4 | 5 | 6 | 7 | k + 8 => simp

/-- Every flag has its own bit, so unpacking loses none. -/
theorem Status.unpack_pack (p : Status) : Status.unpack p.pack = p := by
  simp only [Status.unpack, Status.pack_getLsbD]
  rfl

/-- Settles O36, bit by bit. -/
theorem packedStatusLayout : Obligations.PackedStatusLayout :=
  fun p => ⟨p.pack_getLsbD 7, p.pack_getLsbD 6, p.pack_getLsbD 5, p.pack_getLsbD 4, p.pack_getLsbD 3,
    p.pack_getLsbD 2, p.pack_getLsbD 1, p.pack_getLsbD 0, p.unpack_pack⟩

end Sys2Proof.Machine

/-! ## Memory (20_memory): what a write and an instruction leave in it -/

namespace Sys2Proof.Machine

/-! ### One write -/

theorem Memory.read_write_of_ne {m : Memory} (hm : Memory.wf m = true) {a b : Nat} (hne : b ≠ a) (v : Byte) :
    Memory.read (Memory.write m a v) b = Memory.read m b :=
  (Memory.read_write hm a b v).trans (if_neg hne)

theorem State.memRead_memWrite {s : State} (hm : Memory.wf s.mem = true) (a b : Addr) (v : Byte) :
    (s.memWrite a v).memRead b = if b = a then v else s.memRead b := by
  simpa only [State.memRead, State.memWrite_mem, BitVec.toNat_inj] using Memory.read_write hm a.toNat b.toNat v

/-- Settles O31. -/
theorem memoryReadAfterWrite : Obligations.MemoryReadAfterWrite :=
  fun _ a b v hm => ⟨State.memRead_memWrite hm a b v, rfl⟩

/-! ### The byte a store writes (43_stores R170) -/

/-- Where a store puts its byte is what the generic store's resolver answers. -/
theorem located_of_store {i : Instr} {o : MemOperand} (he : i.form.effect = .store) (ho : memOperand i = some o)
    (s : State) : located i s = some (s.opcodeFetched.locate .store o).1 := by
  simp [located, ho, he]

/-- A store instruction completes, its register's value at the located address; or its sum overflows and nothing is
written (43_stores R170, 41_addressing_modes R114). -/
theorem exec_store_cases {i : Instr} (he : i.form.effect = .store) (s : State) :
    ∃ sel, i.form.sel = some sel ∧
      ((∃ (ea : Addr) (n : Nat) (k : Int), 2 ≤ k ∧ k ≤ 6 ∧ located i s = some (.addr ea) ∧
        exec i s = .next { s with
          pc := s.pc + BitVec.ofNat 16 n, remaining := s.remaining - k, mode := .idle,
          mem := Memory.write s.mem ea.toNat (s.reg sel) }) ∨
      (∃ mode base index, located i s = some (.overflow mode base index) ∧
        exec i s = .next (s.raiseAddressOverflow mode base index s.pc))) := by
  obtain ⟨sel, o, hsel, ho, hexec⟩ := exec_store he
  refine ⟨sel, hsel, ?_⟩
  rw [hexec s, located_of_store he ho s]
  obtain ⟨ea, n, k, hk, hk', hea, hstore⟩ | ⟨mode, base, index, hover, hstore⟩ := store_cases sel o s
  · exact .inl ⟨ea, n, k, hk, hk', congrArg some hea, hstore⟩
  · exact .inr ⟨mode, base, index, congrArg some hover, hstore⟩

/-- Settles O24: the byte fetched is read at the address the store has just written. -/
theorem storedByteIsFetched : Obligations.StoredByteIsFetched := by
  intro i s t sel hm he hsel h hmode hloc
  obtain ⟨sel', hsel', ⟨ea, n, k, -, -, hea, hexec⟩ | ⟨mode, base, index, -, hexec⟩⟩ := exec_store_cases he s <;>
    cases hexec.symm.trans h
  · obtain rfl : sel' = sel := Option.some.inj (hsel'.symm.trans hsel)
    have hpc : ea = s.pc + BitVec.ofNat 16 n := Located.addr.inj (Option.some.inj (hea.symm.trans hloc))
    subst hpc
    exact (Memory.read_write hm _ _ _).trans (if_pos rfl)
  · exact absurd rfl hmode

/-! ### What changes no byte (20_memory R59, 60_exceptions R204) -/

theorem writtenAddrs_of_store {i : Instr} {s : State} {ea : Addr} (he : i.form.effect = .store)
    (hea : located i s = some (.addr ea)) : writtenAddrs i s = [ea.toNat] := by
  unfold writtenAddrs
  split
  next => cases he
  next => simp [he, hea]

theorem exec_store_read_of_notMem {i : Instr} {s t : State} {a : Nat} (he : i.form.effect = .store)
    (hm : Memory.wf s.mem = true) (h : exec i s = .next t) (ha : a ∉ writtenAddrs i s) :
    Memory.read t.mem a = Memory.read s.mem a := by
  obtain ⟨sel, -, ⟨ea, n, k, -, -, hea, hexec⟩ | ⟨mode, base, index, -, hexec⟩⟩ := exec_store_cases he s <;>
    cases hexec.symm.trans h
  · rw [writtenAddrs_of_store he hea, List.mem_singleton] at ha
    exact Memory.read_write_of_ne hm ha _
  · rfl

/-- Settles O19, by what an instruction can leave: a load and an AddressOverflow keep memory, a store writes one byte
and JSR two. -/
theorem onlyWrittenBytesChange : Obligations.OnlyWrittenBytesChange := by
  intro i s t a hm h ha
  cases exec_result h with
  | load sel v n k => rw [State.loadInto_mem]
  | store _ _ _ _ he => exact exec_store_read_of_notMem he hm h ha
  | jsr target hi =>
    subst hi
    obtain ⟨hhigh, hlow⟩ : a ≠ _ ∧ a ≠ _ := by simpa only [writtenAddrs, List.mem_pair, not_or] using ha
    exact (Memory.read_write_of_ne (Memory.wf_write hm _ _) hlow _).trans (Memory.read_write_of_ne hm hhigh _)
  | overflow mode base index => rfl

/-- The opcode byte of an instruction decodes to its form (30_encoding R73, R74). -/
theorem decodeOpcode_opcode (i : Instr) : decodeOpcode i.opcode = some i.form := by
  cases i <;> rfl

/-- An instruction that is neither a store nor JSR changes no byte. -/
theorem effect_of_exec_mem_ne {i : Instr} {s t : State} (h : exec i s = .next t) (hne : t.mem ≠ s.mem) :
    i.form.effect = .store ∨ i.form.effect = .jsr := by
  cases exec_result h with
  | load sel v n k => exact absurd (State.loadInto_mem _ sel v) hne
  | store _ _ _ _ he => exact .inl he
  | jsr target hi => exact .inr (hi ▸ rfl)
  | overflow mode base index => exact absurd rfl hne

/-- Settles O55: of the steps only an instruction writes memory, and the byte at PC is its opcode. -/
theorem onlyStoresAndJsrWriteMemory : Obligations.OnlyStoresAndJsrWriteMemory := by
  intro s t h hne
  cases step_result h with
  | callEnded => exact absurd rfl hne
  | instruction i rest _ _ _ hdec hexec =>
    have hop : i.opcode = s.memRead s.pc := opcode_of_decode hdec
    exact ⟨i.form, hop ▸ decodeOpcode_opcode i, effect_of_exec_mem_ne hexec hne⟩
  | unsupportedOpcode e => exact absurd rfl hne
  | outsideCall => exact absurd rfl hne

end Sys2Proof.Machine

/-! ## Encoding (30_encoding): the opcode table read both ways, and the decoder as the inverse of the encoder -/

namespace Sys2Proof.Machine

/-! ### Operand bytes (30_encoding R71, R72) -/

theorem hiLo_highByte_lowByte (w : Addr) : hiLo (highByte w) (lowByte w) = w := by
  rw [hiLo, highByte, lowByte, BitVec.setWidth_ushiftRight_eq_extractLsb, BitVec.setWidth_eq_extractLsb' (by decide)]
  exact (BitVec.extractLsb'_append_extractLsb'_eq_extractLsb' rfl).trans BitVec.extractLsb'_eq_self

theorem lowByte_hiLo (h l : Byte) : lowByte (hiLo h l) = l := BitVec.setWidth_append_eq_right

theorem highByte_hiLo (h l : Byte) : highByte (hiLo h l) = h :=
  BitVec.setWidth_ushiftRight_eq_extractLsb.trans BitVec.extractLsb'_append_eq_left

/-- The operand bytes of an address are its two halves, low byte first. -/
theorem absBytes_eq_iff {w : Addr} {l h : Byte} : absBytes w = [l, h] ↔ w = hiLo h l := by
  constructor
  · intro hw
    cases hw
    exact (hiLo_highByte_lowByte w).symm
  · rintro rfl
    rw [absBytes, lowByte_hiLo, highByte_hiLo]

theorem length_operandBytes (i : Instr) : i.operandBytes.length = i.form.mode.operandCount := by
  cases i <;> rfl

theorem operandCount_le_two (m : AddrMode) : m.operandCount ≤ 2 := by
  cases m <;> decide

/-! ### The opcode table (30_encoding R73, R74) -/

/-- The opcode table read both ways: it gives the instruction with this opcode whose operand bytes are the first of
the two it is given. -/
theorem instrOf_eq_some_iff {op b1 b2 : Byte} {i : Instr} :
    instrOf op b1 b2 = some i ↔ i.opcode = op ∧ i.operandBytes = [b1, b2].take i.form.mode.operandCount := by
  -- an operand of one byte is the first byte itself, an address is the two joined
  constructor
  · intro h
    refine ⟨opcode_of_instrOf h, ?_⟩
    unfold instrOf at h
    split at h <;> cases h <;> first | rfl | exact absBytes_eq_iff.mpr rfl
  · rintro ⟨rfl, h⟩
    cases i <;> first | (cases h; rfl) | (obtain rfl := absBytes_eq_iff.mp h; rfl)

theorem map_form_instrOf_opcode (i : Instr) (b1 b2 : Byte) : (instrOf i.opcode b1 b2).map Instr.form = some i.form := by
  cases i <;> rfl

/-- Whatever the operand bytes, the table gives an opcode byte the form of the instructions that have it. -/
theorem map_form_instrOf_eq_some_iff {op b1 b2 : Byte} {f : Form} :
    (instrOf op b1 b2).map Instr.form = some f ↔ ∃ i : Instr, i.opcode = op ∧ i.form = f := by
  constructor
  · intro h
    obtain ⟨i, hi, hf⟩ := Option.map_eq_some_iff.mp h
    exact ⟨i, opcode_of_instrOf hi, hf⟩
  · rintro ⟨i, rfl, rfl⟩
    exact map_form_instrOf_opcode i b1 b2

theorem decodeOpcode_eq_some_iff {op : Byte} {f : Form} :
    decodeOpcode op = some f ↔ ∃ i : Instr, i.opcode = op ∧ i.form = f :=
  map_form_instrOf_eq_some_iff

/-- Settles O27: with any operand bytes, the table gives the form of the instructions with that opcode. -/
theorem formReadFromOpcodeAlone : Obligations.FormReadFromOpcodeAlone :=
  fun _ _ _ => Option.ext fun _ => map_form_instrOf_eq_some_iff.trans decodeOpcode_eq_some_iff.symm

theorem opcode_form_mem_opcodeTable (i : Instr) : (i.opcode, i.form) ∈ Expected.opcodeTable := by
  cases i <;> exact List.mem_of_elem_eq_true rfl

theorem decodeOpcode_of_mem_opcodeTable : ∀ row ∈ Expected.opcodeTable, decodeOpcode row.1 = some row.2 := by
  decide

/-- The decoder's forms are the rows of the table written out. -/
theorem decodeOpcode_eq_some_iff_mem_opcodeTable {op : Byte} {f : Form} :
    decodeOpcode op = some f ↔ (op, f) ∈ Expected.opcodeTable := by
  constructor
  · intro h
    obtain ⟨i, rfl, rfl⟩ := decodeOpcode_eq_some_iff.mp h
    exact opcode_form_mem_opcodeTable i
  · exact decodeOpcode_of_mem_opcodeTable (op, f)

/-- The opcode bytes of the table written out, as numbers. -/
def legalOpcodes : List Nat := Expected.opcodeTable.map fun row => row.1.toNat

theorem mem_legalOpcodes_iff {n : Nat} :
    n ∈ legalOpcodes ↔ n < 256 ∧ (decodeOpcode (BitVec.ofNat 8 n)).isSome = true := by
  simp only [legalOpcodes, List.mem_map, Option.isSome_iff_exists, decodeOpcode_eq_some_iff_mem_opcodeTable]
  constructor
  · rintro ⟨⟨op, f⟩, hrow, rfl⟩
    exact ⟨op.isLt, f, by simpa using hrow⟩
  · rintro ⟨hn, f, hrow⟩
    exact ⟨_, hrow, Nat.mod_eq_of_lt hn⟩

theorem length_legalOpcodes : legalOpcodes.length = 32 := rfl

theorem legalOpcodes_nodup : legalOpcodes.Nodup := by decide

/-- Among the 256 bytes those that decode are the 32 of the table. -/
theorem length_legal_bytes :
    ((List.range 256).filter fun n => (decodeOpcode (BitVec.ofNat 8 n)).isSome).length = 32 := by
  have hperm : ((List.range 256).filter fun n => (decodeOpcode (BitVec.ofNat 8 n)).isSome).Perm legalOpcodes :=
    (List.perm_ext_iff_of_nodup (List.nodup_range.filter _) legalOpcodes_nodup).mpr fun n => by
      rw [List.mem_filter, List.mem_range, mem_legalOpcodes_iff]
  exact hperm.length_eq.trans length_legalOpcodes

theorem length_filter_isNone {α β : Type} (g : α → Option β) (l : List α) :
    (l.filter fun x => (g x).isNone).length = l.length - (l.filter fun x => (g x).isSome).length := by
  rw [l.length_eq_length_filter_add fun x => (g x).isSome, Nat.add_sub_cancel_left]
  simp only [Option.not_isSome]

/-- The other bytes are illegal, 256 - 32 of them. -/
theorem length_illegal_bytes :
    ((List.range 256).filter fun n => (decodeOpcode (BitVec.ofNat 8 n)).isNone).length = 224 := by
  rw [length_filter_isNone, length_legal_bytes, List.length_range]

/-- Settles O28: the decoder's forms are the table's rows, whose 32 opcodes are distinct. -/
theorem legalOpcodesAreTheTable : Obligations.LegalOpcodesAreTheTable :=
  ⟨fun _ _ => decodeOpcode_eq_some_iff_mem_opcodeTable, length_illegal_bytes⟩

/-! ### Well-formed forms (30_encoding R75) -/

theorem wellFormed_iff {f : Form} : f.wellFormed = true ↔
    f.ctxMatchesEffect = true ∧ f.selMatchesEffect = true ∧ f.targetOnlyForJsr = true ∧
      f.immediateOnlyLoads = true ∧ f.indexIsNotSel = true ∧ f.indirectOnlyAccumulator = true ∧
      f.zeroPageYOnlyX = true ∧ f.absoluteIndexedStoreOnlyAccumulator = true := by
  simp [Form.wellFormed, and_assoc]

/-- The first three checks leave the effect, and for a load or a store the register and the mode, to choose. -/
theorem form_shape_of_wellFormed {f : Form} (h : f.wellFormed = true) :
    (∃ sel mode, f = .ofLoad sel mode) ∨ (∃ sel mode, f = .ofStore sel mode) ∨ f = .ofJsr := by
  obtain ⟨hctx, hsel, htarget, -⟩ := wellFormed_iff.mp h
  obtain ⟨effect, sel, mode, ctx⟩ := f
  cases effect with
  | load =>
    obtain ⟨sel, rfl⟩ := Option.isSome_iff_exists.mp (beq_iff_eq.mp hsel)
    cases beq_iff_eq.mp hctx
    exact .inl ⟨sel, mode, rfl⟩
  | store =>
    obtain ⟨sel, rfl⟩ := Option.isSome_iff_exists.mp (beq_iff_eq.mp hsel)
    cases beq_iff_eq.mp hctx
    exact .inr (.inl ⟨sel, mode, rfl⟩)
  | jsr =>
    obtain rfl : sel = none := by simpa [Form.selMatchesEffect] using hsel
    cases beq_iff_eq.mp hctx
    cases beq_iff_eq.mp (beq_iff_eq.mp htarget)
    exact .inr (.inr rfl)

theorem wellFormed_instr (i : Instr) : i.wellFormed = true := by
  cases i <;> rfl

theorem ofLoad_mem_opcodeTable (sel : Sel) (mode : AddrMode) (h : (Form.ofLoad sel mode).wellFormed = true) :
    Form.ofLoad sel mode ∈ Expected.opcodeTable.map Prod.snd := by
  revert h
  cases sel <;> cases mode <;> decide

theorem ofStore_mem_opcodeTable (sel : Sel) (mode : AddrMode) (h : (Form.ofStore sel mode).wellFormed = true) :
    Form.ofStore sel mode ∈ Expected.opcodeTable.map Prod.snd := by
  revert h
  cases sel <;> cases mode <;> decide

/-- Settles O29: the checks leave only rows of the table, and the form of every instruction passes them. -/
theorem wellFormedFormsAreDecoded : Obligations.WellFormedFormsAreDecoded := by
  intro f
  constructor
  · intro h
    have hrow : f ∈ Expected.opcodeTable.map Prod.snd := by
      obtain ⟨sel, mode, rfl⟩ | ⟨sel, mode, rfl⟩ | rfl := form_shape_of_wellFormed h
      · exact ofLoad_mem_opcodeTable sel mode h
      · exact ofStore_mem_opcodeTable sel mode h
      · decide
    obtain ⟨⟨op, f⟩, hmem, rfl⟩ := List.mem_map.mp hrow
    exact ⟨op, decodeOpcode_eq_some_iff_mem_opcodeTable.mpr hmem⟩
  · rintro ⟨op, h⟩
    obtain ⟨i, -, rfl⟩ := decodeOpcode_eq_some_iff.mp h
    exact wellFormed_instr i

/-! ### Decoding as the inverse of encoding (30_encoding R70, R71) -/

/-- The decoder reads an instruction off the table where all of its operand bytes are there, and leaves the bytes
after them. -/
theorem decode_cons_eq_ok_iff {op : Byte} {args rest : List Byte} {i : Instr} :
    decode (op :: args) = .ok (i, rest) ↔ instrOf op (args.getD 0 0) (args.getD 1 0) = some i ∧
      i.form.mode.operandCount ≤ args.length ∧ args.drop i.form.mode.operandCount = rest := by
  have hlength (j : Instr) : j.length = j.form.mode.operandCount + 1 := Nat.add_comm _ _
  simp only [decode]
  cases instrOf op (args.getD 0 0) (args.getD 1 0) with
  | none => simp
  | some j =>
    simp only [hlength, Nat.add_le_add_iff_right, Nat.add_sub_cancel]
    by_cases hle : j.form.mode.operandCount ≤ args.length
    · grind
    · grind

theorem take_pair_getD {args : List Byte} {n : Nat} (hn : n ≤ 2) (hargs : n ≤ args.length) :
    [args.getD 0 0, args.getD 1 0].take n = args.take n := by
  match args, n with
  | _, 0 => rfl
  | _ :: _, 1 => rfl
  | _ :: _ :: _, 2 => rfl

/-- The decoder and the encoder are inverse: what decodes is an encoding, and every encoding decodes. -/
theorem decode_eq_ok_iff {bytes rest : List Byte} {i : Instr} :
    decode bytes = .ok (i, rest) ↔ bytes = encode i ++ rest := by
  cases bytes with
  | nil => exact ⟨nofun, nofun⟩
  | cons op args =>
    have hcount : i.form.mode.operandCount ≤ 2 := operandCount_le_two i.form.mode
    rw [decode_cons_eq_ok_iff, instrOf_eq_some_iff, encode, List.cons_append, List.cons.injEq]
    constructor
    · rintro ⟨⟨rfl, hbytes⟩, hargs, rfl⟩
      rw [hbytes, take_pair_getD hcount hargs, List.take_append_drop]
      exact ⟨rfl, rfl⟩
    · rintro ⟨rfl, rfl⟩
      have hargs : i.form.mode.operandCount ≤ (i.operandBytes ++ rest).length := by
        simp [length_operandBytes]
      rw [take_pair_getD hcount hargs]
      exact ⟨⟨rfl, (List.take_left' (length_operandBytes i)).symm⟩, hargs, List.drop_left' (length_operandBytes i)⟩

/-- Settles O25: an encoding with bytes after it is what decodes. -/
theorem decodeOfEncode : Obligations.DecodeOfEncode :=
  fun _ _ => decode_eq_ok_iff.mpr rfl

/-- Settles O26: what decodes is an encoding with bytes after it. -/
theorem decodeAcceptsOnlyEncodings : Obligations.DecodeAcceptsOnlyEncodings :=
  fun _ _ _ => decode_eq_ok_iff.mp

/-- Settles O30: each byte string is an encoding with nothing after it. -/
theorem exampleBytesDecode : Obligations.ExampleBytesDecode :=
  ⟨decodeOfEncode (.ldaImmediate 0x84#8) [], decodeOfEncode (.ldaZeroPage 0x10#8) [],
    decodeOfEncode (.ldxZeroPageY 0x10#8) [], decodeOfEncode (.staAbsolute 0x1234#16) [],
    decodeOfEncode (.ldaAbsoluteX 0x12F0#16) [], decodeOfEncode (.staIndirectX 0x20#8) [],
    decodeOfEncode (.ldaIndirectY 0x40#8) [], decodeOfEncode (.jsr 0x8000#16) [],
    decodeOfEncode (.ldaAbsolute 0x0010#16) []⟩

end Sys2Proof.Machine

/-! ## Fetch, decode, execute (40_fetch_decode_execute): a call step by step, what an instruction that completes adds to
PC and the counter, and the loop of R102 as the spec writes it -/

namespace Sys2Proof.Machine

/-! ### A call in progress, step by step (40 R93 to R95) -/

/-- At an instruction boundary of a call in progress (40 R93). -/
structure State.Running (s : State) : Prop where
  mode : s.mode = .idle
  inCall : s.inCall = true

theorem State.startCall_running (s : State) (n : Int) : (s.startCall n).Running := ⟨rfl, rfl⟩

section
variable {s : State} (hs : s.Running)
include hs

theorem State.Running.step_of_spent (hr : s.remaining ≤ 0) : step s = .next s.endCall :=
  step_eq_of_result (.callEnded hs.mode hs.inCall hr)

theorem State.Running.step_of_budget (hr : 0 < s.remaining) : step s = s.runInstruction := by
  simp [step, State.atBoundary, hs.mode, hs.inCall, Int.not_le.mpr hr]

end

theorem State.runInstruction_of_decode_ok {s : State} {i : Instr} {rest : List Byte}
    (h : decode s.fetchBytes = .ok (i, rest)) : s.runInstruction = exec i s := by
  simp [State.runInstruction, h]

/-- What an instruction started at a boundary does to the engine control: it completes, or a fault ends the call
(40 R95, 60_exceptions R204). -/
theorem State.runInstruction_cases (s : State) :
    ∃ t, s.runInstruction = .next t ∧ (CompletesFrom s t ∨ t.mode = .faulted) := by
  cases hd : decode s.fetchBytes with
  | error e => exact ⟨s.raiseUnsupportedOpcode, by simp [State.runInstruction, hd], .inr rfl⟩
  | ok result =>
    rw [State.runInstruction_of_decode_ok hd]
    obtain ⟨t, hexec, ht⟩ | ⟨mode, base, index, hexec⟩ := exec_cases result.1 s
    · exact ⟨t, hexec, .inl ht⟩
    · exact ⟨_, hexec, .inr rfl⟩

/-- Settles O44: a step at a boundary is the end of the call or the start of an instruction, as the budget says. -/
theorem budgetTestedBeforeFetch : Obligations.BudgetTestedBeforeFetch := by
  intro s hm hc
  have hs : s.Running := ⟨hm, hc⟩
  refine ⟨fun hr => ⟨hs.step_of_spent hr, rfl⟩, fun hr => ?_⟩
  obtain ⟨t, hrun, ht⟩ := s.runInstruction_cases
  exact ⟨t, (hs.step_of_budget hr).trans hrun, ht.imp_left CompletesFrom.mode⟩

/-! ### Fetching (40 R92, R94) -/

/-- Settles O33: the byte and the counter are those of the definition, PC is the sum taken modulo 65536. -/
theorem fetchByteResult : Obligations.FetchByteResult := by
  intro s
  have hpc : s.pc + 1#16 = BitVec.ofNat 16 (s.pc.toNat + 1) := by simp [BitVec.ofNat_add]
  simp only [State.fetchByte, State.memRead, State.charge, hpc]

/-- The bytes read ahead are those at PC and after it, addresses modulo 65536. -/
theorem State.fetchBytes_eq (s : State) :
    s.fetchBytes = [s.memRead s.pc, s.memRead (s.pc + 1#16), s.memRead (s.pc + 2#16)] := by
  simp [State.fetchBytes, State.fetchByte, State.memRead]

/-- Settles O43: what decodes is run, and every instruction is well-formed. -/
theorem stepRunsDecodedInstruction : Obligations.StepRunsDecodedInstruction := by
  intro s i rest hm hc hr hd
  have hs : s.Running := ⟨hm, hc⟩
  have hstep : step s = exec i s := (hs.step_of_budget hr).trans (State.runInstruction_of_decode_ok hd)
  refine ⟨hstep, wellFormed_instr i, ?_⟩
  simp [State.fetchBytes_eq, State.memRead, BitVec.toNat_add]

/-- Settles O40, by the fields of `startCall`. -/
theorem callEntry : Obligations.CallEntry :=
  fun s n hs => ⟨s.startCall n, if_neg (by simp [hs]), rfl, rfl, rfl, rfl, rfl, rfl, rfl, rfl, rfl, rfl, rfl, rfl⟩

/-! ### The cycle counter of a call (40 R93, R97, R98) -/

/-- `exec_cases` of the next state an instruction has answered. -/
theorem completes_or_overflows {i : Instr} {s t : State} (h : exec i s = .next t) :
    CompletesFrom s t ∨ ∃ mode base index, t = s.raiseAddressOverflow mode base index s.pc := by
  obtain ⟨u, hu, hcompletes⟩ | ⟨mode, base, index, hover⟩ := exec_cases i s
  · cases hu.symm.trans h
    exact .inl hcompletes
  · cases hover.symm.trans h
    exact .inr ⟨mode, base, index, rfl⟩

theorem CompletesFrom.budgetInv {s t : State} (h : CompletesFrom s t) (hs : s.BudgetInv) (hm : s.mode = .idle)
    (hr : 0 < s.remaining) : t.BudgetInv := by
  have hmode : s.mode ≠ .faulted := by simp [hm]
  obtain ⟨k, hk, hk', hcharged⟩ := h.charged
  have hreq := h.requested
  have hlower := hs.unrun hmode
  have hupper := hs.overrun hmode
  exact {
    unrun := fun _ _ => by omega
    overrun := fun _ _ => by omega
    spent := fun hdone => by simp [h.mode] at hdone }

theorem State.budgetInv_of_faulted {s : State} (h : s.mode = .faulted) : s.BudgetInv where
  unrun hm := absurd h hm
  overrun hm := absurd h hm
  spent hm := by simp [h] at hm

theorem State.startCall_budgetInv (s : State) (n : Int) : (s.startCall n).BudgetInv where
  unrun _ _ := rfl
  overrun _ (h : 0 < n) := ⟨by simp; omega, le_refl n⟩
  spent := nofun

theorem State.endCall_budgetInv {s : State} (hs : s.BudgetInv) (hm : s.mode = .idle) (hr : s.remaining ≤ 0) :
    s.endCall.BudgetInv where
  unrun _ := hs.unrun (by simp [hm])
  overrun _ := hs.overrun (by simp [hm])
  spent _ := hr

/-- Settles O50: an instruction is started with at least 1 cycle left and charges at most 6. -/
theorem stepKeepsBudgetInvariant : Obligations.StepKeepsBudgetInvariant := by
  intro s t hs h
  cases step_result h with
  | callEnded hm _ hr => exact State.endCall_budgetInv hs hm hr
  | instruction i rest hm _ hr _ hexec =>
    obtain hcompletes | ⟨mode, base, index, rfl⟩ := completes_or_overflows hexec
    · exact hcompletes.budgetInv hs hm hr
    · exact State.budgetInv_of_faulted rfl
  | unsupportedOpcode e => exact State.budgetInv_of_faulted rfl
  | outsideCall => exact hs

theorem step_requested {s t : State} (h : step s = .next t) : t.requested = s.requested := by
  cases step_result h with
  | callEnded => rfl
  | instruction i rest _ _ _ _ hexec =>
    obtain hcompletes | ⟨mode, base, index, rfl⟩ := completes_or_overflows hexec
    · exact hcompletes.requested
    · rfl
  | unsupportedOpcode e => rfl
  | outsideCall => rfl

/-! ### The steps of a call -/

theorem State.runCall_of_step_ended {s t : State} (h : step s = .next t) (ht : t.mode ≠ .idle) (k : Nat) :
    s.runCall (k + 1) = t := by
  simp [State.runCall, h, ht]

theorem State.runCall_of_step_idle {s t : State} (h : step s = .next t) (ht : t.mode = .idle) (k : Nat) :
    s.runCall (k + 1) = t.runCall k := by
  simp [State.runCall, h, ht]

theorem State.Running.runCall_of_spent {s : State} (hs : s.Running) (hr : s.remaining ≤ 0) (k : Nat) :
    s.runCall (k + 1) = s.endCall :=
  State.runCall_of_step_ended (hs.step_of_spent hr) nofun k

/-- Every instruction that completes charges at least 2 cycles, so a budget of `2 * k` is spent after `k` of them. -/
theorem State.Running.runCall_ends {s : State} (hs : s.Running) {k : Nat} (hr : s.remaining ≤ 2 * k) :
    (s.runCall (k + 1)).CallEnded := by
  induction k generalizing s with
  | zero =>
    rw [hs.runCall_of_spent (by simpa using hr)]
    exact .inl rfl
  | succ k ih =>
    obtain hspent | hbudget := le_or_gt s.remaining 0
    · rw [hs.runCall_of_spent hspent]
      exact .inl rfl
    · obtain ⟨t, hrun, hcompletes | hfaulted⟩ := s.runInstruction_cases
      · obtain ⟨c, hc, -, hcharged⟩ := hcompletes.charged
        rw [State.runCall_of_step_idle ((hs.step_of_budget hbudget).trans hrun) hcompletes.mode]
        exact ih ⟨hcompletes.mode, hcompletes.inCall.trans hs.inCall⟩ (by omega)
      · rw [State.runCall_of_step_ended ((hs.step_of_budget hbudget).trans hrun) (by simp [hfaulted])]
        exact .inr hfaulted

/-- Settles O56: the start of a call is a boundary with `n` cycles left. -/
theorem executeEnds : Obligations.ExecuteEnds := by
  intro s n
  have hends : ∀ k : Nat, n ≤ 2 * k → ((s.startCall n).runCall (k + 1)).CallEnded :=
    fun k hk => (s.startCall_running n).runCall_ends hk
  exact ⟨hends, hends n.toNat (by omega)⟩

theorem State.execute_of_nonpos (s : State) {n : Int} (hn : n ≤ 0) : s.execute n = (s.startCall n).endCall :=
  (s.startCall_running n).runCall_of_spent hn n.toNat

/-- The final state of a call keeps the budget it was given and the invariant of the counter. -/
theorem State.execute_budget (s : State) (n : Int) : (s.execute n).BudgetInv ∧ (s.execute n).requested = n :=
  State.runCall_induction (P := fun t => t.BudgetInv ∧ t.requested = n)
    (fun t u ht h => ⟨stepKeepsBudgetInvariant t u ht.1 h, (step_requested h).trans ht.2⟩)
    (n.toNat + 1) ⟨s.startCall_budgetInv n, rfl⟩

theorem State.result_of_done {s : State} (h : s.mode = .done) : s.result = some (.ok (s.requested - s.remaining)) := by
  simp [State.result, h]

/-- Settles O57: in mode Done the counter's invariant bounds what is left of the budget. -/
theorem cyclesUsedBounds : Obligations.CyclesUsedBounds := by
  intro s n
  constructor
  · intro hn
    rw [s.execute_of_nonpos hn]
    exact ⟨by simp [State.result], rfl, rfl⟩
  · intro hn hdone
    obtain ⟨hbudget, hreq⟩ := s.execute_budget n
    have hspent := hbudget.spent hdone
    have hoverrun := hbudget.overrun (by simp [hdone]) (by omega)
    exact ⟨_, State.result_of_done hdone, by omega, by omega⟩

/-! ### Words as numbers (00_scope R9, 41_addressing_modes R111, R112) -/

@[simp] theorem zext16_toNat (b : Byte) : (zext16 b).toNat = b.toNat := BitVec.toNat_setWidth_of_le (by decide)

theorem zext16_eq_ofNat (b : Byte) : zext16 b = BitVec.ofNat 16 b.toNat := by
  rw [zext16, BitVec.ofNat_toNat]

theorem hiLo_toNat (h l : Byte) : (hiLo h l).toNat = Expected.word l h := by
  rw [hiLo, BitVec.toNat_append, ← Nat.shiftLeft_add_eq_or_of_lt l.isLt, Nat.shiftLeft_eq]
  rfl

theorem hiLo_eq_ofNat (h l : Byte) : hiLo h l = BitVec.ofNat 16 (Expected.word l h) := by
  rw [← hiLo_toNat, BitVec.ofNat_toNat, BitVec.setWidth_eq]

theorem highByte_toNat (w : Addr) : (highByte w).toNat = w.toNat / 256 := by
  have hw := w.isLt
  simp only [highByte, BitVec.toNat_setWidth, BitVec.toNat_ushiftRight, Nat.shiftRight_eq_div_pow]
  omega

theorem lowByte_toNat (w : Addr) : (lowByte w).toNat = w.toNat % 256 := BitVec.toNat_setWidth 8 w

/-- The mask 0xFF00 keeps the high byte alone. -/
theorem and_highMask (w : Addr) : w &&& 0xFF00#16 = hiLo (highByte w) 0#8 := by
  have hmask : (0xFF00#16 : Addr) = 0xFF#8 ++ 0x00#8 := rfl
  conv_lhs => rw [← hiLo_highByte_lowByte w, hiLo, hmask, BitVec.and_append]
  simp only [hiLo, BitVec.and_zero]
  rw [show (0xFF#8 : Byte) = BitVec.allOnes 8 from rfl, BitVec.and_allOnes]

theorem pageCross_iff (base ea : Addr) : pageCross base ea = true ↔ base.toNat / 256 ≠ ea.toNat / 256 := by
  have hxor : highByte (base ^^^ ea) = highByte base ^^^ highByte ea := by
    simp only [highByte, BitVec.ushiftRight_xor_distrib, BitVec.setWidth_xor]
  have hzero : (hiLo (highByte base ^^^ highByte ea) 0#8 = 0#16) ↔ highByte base = highByte ea :=
    (BitVec.append_left_inj (s₂ := 0#8) 0#8).trans BitVec.xor_eq_zero_iff
  rw [pageCross, bne_iff_ne, and_highMask, hxor, Ne, hzero, ← BitVec.toNat_inj, highByte_toNat, highByte_toNat]

theorem pageCross_iff_xor (base ea : Addr) :
    pageCross base ea = true ↔ (base.toNat ^^^ ea.toNat) &&& 0xFF00 ≠ 0 := by
  rw [pageCross, bne_iff_ne, Ne, ← BitVec.toNat_inj, BitVec.toNat_and, BitVec.toNat_xor]
  rfl

/-- An indexed sum that fits 16 bits does not wrap. -/
theorem add_zext16_toNat {base : Addr} {index : Byte} (h : base.toNat + index.toNat ≤ 0xFFFF) :
    (base + zext16 index).toNat = base.toNat + index.toNat := by
  rw [BitVec.toNat_add, zext16_toNat]
  omega

/-- `ReadPtrZP` reads the pointer, low byte first, its second byte inside the zero page (41_addressing_modes R111). -/
@[simp] theorem State.readPtrZP_toNat (s : State) (z : Byte) :
    (s.readPtrZP z).1.toNat = Expected.pointer s z.toNat := by
  have hnext : (zext16 (z + 1#8)).toNat = (z.toNat + 1) % 256 := by simp [BitVec.toNat_add]
  simp only [State.readPtrZP, State.readPtrZPWith, Config.zpPointerWrap, ptrHighAddr, if_true, State.memRead, hnext,
    zext16_toNat, hiLo_toNat, Expected.pointer]

@[simp] theorem State.readPtrZP_state (s : State) (z : Byte) : (s.readPtrZP z).2 = s.charge 2 :=
  s.charge_charge 1 1

/-! ### What an instruction that completes adds to PC and the counter (40 R99, R100) -/

/-- The operand of an instruction, as the generic load and store take it: none for JSR, whose target is not resolved. -/
def instrOperand : Instr → Option Operand
  | .ldaImmediate v | .ldxImmediate v | .ldyImmediate v => some (.immediate v)
  | i => (memOperand i).map .mem

/-- A load instruction is the generic load of its register on its operand (40 R95). -/
theorem exec_load_operand {i : Instr} (he : i.form.effect = .load) :
    ∃ sel o, i.form = .ofLoad sel i.form.mode ∧ instrOperand i = some o ∧ ∀ s, exec i s = load sel o s := by
  cases i <;> cases he <;> exact ⟨_, _, rfl, rfl, fun _ => rfl⟩

/-- A store instruction is the generic store of its register on its memory operand (40 R95). -/
theorem exec_store_operand {i : Instr} (he : i.form.effect = .store) :
    ∃ sel m, i.form = .ofStore sel i.form.mode ∧ instrOperand i = some (.mem m) ∧
      ∀ s, exec i s = store sel m s := by
  cases i <;> cases he <;> exact ⟨_, _, rfl, rfl, fun _ => rfl⟩

/-- The cycle of an indexed 16-bit sum that fits: always for a store, on a page cross for a load
(41_addressing_modes R113). -/
def indexCycle (ctx : Ctx) (base : Nat) (index : Byte) : Int :=
  match ctx with
  | .load => Expected.crossing base (base + index.toNat)
  | .store => 1

/-- The cycles of a memory operand that is located: its bytes, its index and pointer cycles, and the access. -/
def MemOperand.cycles (ctx : Ctx) (s : State) : MemOperand → Int
  | .zeroPage _ => 2
  | .zeroPageX _ | .zeroPageY _ | .absolute _ => 3
  | .absoluteX base => 3 + indexCycle ctx base.toNat s.x
  | .absoluteY base => 3 + indexCycle ctx base.toNat s.y
  | .indirectX _ => 5
  | .indirectY z => 4 + indexCycle ctx (Expected.pointer s z.toNat) s.y

/-- The operand bytes of an operand (41_addressing_modes R127). -/
def Operand.size : Operand → Nat
  | .immediate _ => 1
  | .mem o => o.size

/-- The cycles of an operand that is located, the access of a place in memory included. -/
def Operand.cycles (ctx : Ctx) (s : State) : Operand → Int
  | .immediate _ => 1
  | .mem o => o.cycles ctx s

/-- A sum that is an address charges the cycle of its context alone. -/
theorem State.indexed_addr {s : State} {ctx : Ctx} {mode : IndexedMode} {base ea : Addr} {index : Byte}
    (h : (s.indexed ctx mode base index).1 = .addr ea) :
    (s.indexed ctx mode base index).2 = s.charge (indexCycle ctx base.toNat index) := by
  obtain hover | hfits := Nat.lt_or_ge 0xFFFF (base.toNat + index.toNat)
  · simp [State.indexed, hover] at h
  · rw [State.indexed, if_neg (Nat.not_lt.mpr hfits)]
    cases ctx with
    | store => rfl
    | load =>
      rw [indexCycle, Expected.crossing, ← add_zext16_toNat hfits]
      dsimp only
      by_cases hcross : base.toNat / 256 = (base + zext16 index).toNat / 256
      · rw [if_pos hcross, if_neg fun hc => (pageCross_iff _ _).mp hc hcross]
        simp [State.charge]
      · rw [if_neg hcross, if_pos ((pageCross_iff _ _).mpr hcross)]

@[simp] theorem pointer_fetched (s : State) (k p : Nat) : Expected.pointer (s.fetched k) p = Expected.pointer s p := by
  simp [Expected.pointer]

/-- Where a memory operand is located, the resolver and the access after it charge the operand's cycles. -/
theorem State.locate_remaining {s : State} {ctx : Ctx} {o : MemOperand} {ea : Addr}
    (h : (s.locate ctx o).1 = .addr ea) : (s.locate ctx o).2.remaining - 1 = s.remaining - o.cycles ctx s := by
  cases o with
  | zeroPage | zeroPageX | zeroPageY | absolute | indirectX =>
    simp [State.locate, MemOperand.cycles]
    omega
  | absoluteX | absoluteY | indirectY =>
    simp only [State.locate] at h ⊢
    rw [State.indexed_addr h]
    simp [MemOperand.cycles]
    omega

theorem State.locate_pc (s : State) (ctx : Ctx) (o : MemOperand) :
    (s.locate ctx o).2.pc = s.pc + BitVec.ofNat 16 o.size := by
  obtain ⟨k, -, -, ht⟩ := s.locate_state ctx o
  rw [ht]

@[simp] theorem State.loadInto_pc (s : State) (sel : Sel) (v : Byte) : (s.loadInto sel v).pc = s.pc := by
  cases sel <;> rfl
@[simp] theorem State.loadInto_remaining (s : State) (sel : Sel) (v : Byte) :
    (s.loadInto sel v).remaining = s.remaining := by
  cases sel <;> rfl

/-- PC and the counter after an instruction of operand `o` that completes: past the opcode and the operand bytes, the
opcode's cycle and the operand's charged. -/
structure Consumes (ctx : Ctx) (o : Operand) (s t : State) : Prop where
  pc : t.pc = s.pc + BitVec.ofNat 16 (1 + o.size)
  remaining : t.remaining = s.remaining - (1 + o.cycles ctx s)

theorem consumes_of_locate {s t u : State} {ctx : Ctx} {m : MemOperand} {ea : Addr}
    (hloc : s.opcodeFetched.locate ctx m = (.addr ea, u)) (hpc : t.pc = u.pc) (hrem : t.remaining = u.remaining - 1) :
    Consumes ctx (.mem m) s t where
  pc := by
    have hu : u.pc = s.opcodeFetched.pc + BitVec.ofNat 16 m.size := by rw [← State.locate_pc _ ctx, hloc]
    rw [hpc, hu, BitVec.ofNat_add, ← BitVec.add_assoc]
    rfl
  remaining := by
    have hu : u.remaining - 1 = s.opcodeFetched.remaining - m.cycles ctx s.opcodeFetched := by
      simpa only [hloc] using State.locate_remaining (congrArg Prod.fst hloc)
    have hcycles : m.cycles ctx s.opcodeFetched = m.cycles ctx s := by cases m <;> rfl
    rw [hrem, hu, hcycles, State.opcodeFetched_remaining, Operand.cycles]
    omega

theorem load_consumes {sel : Sel} {o : Operand} {s t : State} (h : load sel o s = .next t) (hm : t.mode ≠ .faulted) :
    Consumes .load o s t := by
  cases o with
  | immediate v =>
    cases h
    exact ⟨by simp [Operand.size, BitVec.add_assoc], by simp [Operand.cycles]; omega⟩
  | mem m =>
    rw [load, State.resolve] at h
    cases hloc : s.opcodeFetched.locate .load m with
    | mk l u =>
      rw [hloc] at h
      cases l with
      | addr ea =>
        cases h
        exact consumes_of_locate hloc (by simp) (by simp)
      | overflow mode base index =>
        cases h
        exact absurd rfl hm

theorem store_consumes {sel : Sel} {m : MemOperand} {s t : State} (h : store sel m s = .next t)
    (hm : t.mode ≠ .faulted) : Consumes .store (.mem m) s t := by
  rw [store] at h
  cases hloc : s.opcodeFetched.locate .store m with
  | mk l u =>
    rw [hloc] at h
    cases l with
    | addr ea =>
      cases h
      exact consumes_of_locate hloc rfl rfl
    | overflow mode base index =>
      cases h
      exact absurd rfl hm

theorem exec_consumes {i : Instr} {s t : State} (he : i.form.effect ≠ .jsr) (h : exec i s = .next t)
    (hm : t.mode ≠ .faulted) :
    ∃ ctx o, i.form.ctx = some ctx ∧ instrOperand i = some o ∧ Consumes ctx o s t := by
  cases heff : i.form.effect with
  | load =>
    obtain ⟨sel, o, hform, ho, hexec⟩ := exec_load_operand heff
    exact ⟨.load, o, hform ▸ rfl, ho, load_consumes ((hexec s).symm.trans h) hm⟩
  | store =>
    obtain ⟨sel, m, hform, ho, hexec⟩ := exec_store_operand heff
    exact ⟨.store, .mem m, hform ▸ rfl, ho, store_consumes ((hexec s).symm.trans h) hm⟩
  | jsr => exact absurd heff he

/-- The bytes of an operand are those of the instruction's format (30_encoding R71). -/
theorem length_eq_of_instrOperand {i : Instr} {o : Operand} (ho : instrOperand i = some o) : i.length = 1 + o.size := by
  cases i <;> cases ho <;> rfl

/-- The column of 30_encoding R73 is the opcode's cycle and the operand's. -/
theorem columnCycles_eq_of_instrOperand {i : Instr} {o : Operand} {ctx : Ctx} (ho : instrOperand i = some o)
    (hctx : i.form.ctx = some ctx) (s : State) :
    Expected.baseCycles i.form + Expected.extraCycle i s = 1 + o.cycles ctx s := by
  cases i <;> cases ho <;> cases hctx <;>
    simp only [Expected.baseCycles, Expected.extraCycle, Instr.form, Form.ofLoad, Form.ofStore, Operand.cycles,
      MemOperand.cycles, indexCycle] <;> omega

/-- Settles O21, by the bytes an operand takes. -/
theorem pcAfterInstruction : Obligations.PcAfterInstruction := by
  intro i s t h hm
  constructor
  · intro he
    obtain ⟨ctx, o, -, ho, hcons⟩ := exec_consumes he h hm
    rw [hcons.pc, length_eq_of_instrOperand ho, BitVec.toNat_add, BitVec.toNat_ofNat, Nat.add_mod_mod]
  · rintro target rfl
    cases (execJsr_eq target s).symm.trans h
    rfl

/-- Settles O22, by the cycles an operand takes. -/
theorem cyclesOfInstruction : Obligations.CyclesOfInstruction := by
  intro i s t h hm
  by_cases he : i.form.effect = .jsr
  · obtain ⟨target, rfl⟩ := jsr_of_effect he
    cases (execJsr_eq target s).symm.trans h
    exact sub_sub_cancel s.remaining 6
  · obtain ⟨ctx, o, hctx, ho, hcons⟩ := exec_consumes he h hm
    rw [hcons.remaining, columnCycles_eq_of_instrOperand ho hctx, sub_sub_cancel]

/-! ### The loop as the spec writes it (40 R102) -/

/-- The operand of a mode with the bytes `b1`, `b2` after the opcode. JSR's target is read as an absolute operand. -/
def operandOfBytes (mode : AddrMode) (b1 b2 : Byte) : Operand :=
  match mode with
  | .immediate => .immediate b1
  | .zeroPage => .mem (.zeroPage b1)
  | .zeroPageX => .mem (.zeroPageX b1)
  | .zeroPageY => .mem (.zeroPageY b1)
  | .absolute | .absoluteTarget => .mem (.absolute (hiLo b2 b1))
  | .absoluteX => .mem (.absoluteX (hiLo b2 b1))
  | .absoluteY => .mem (.absoluteY (hiLo b2 b1))
  | .indirectX => .mem (.indirectX b1)
  | .indirectY => .mem (.indirectY b1)

/-- The opcode table reads an operand by its form's mode alone (30_encoding R71, R76). -/
theorem instrOperand_of_instrOf {op b1 b2 : Byte} {i : Instr} (h : instrOf op b1 b2 = some i) :
    ∀ o, instrOperand i = some o → o = operandOfBytes i.form.mode b1 b2 := by
  unfold instrOf at h
  split at h <;> cases h <;> rintro o ⟨⟩ <;> rfl

/-- What resolving a memory operand gives, as the pseudocode gives it. -/
def answerOfLocated : Located × State → Pseudocode.Answer
  | (.addr ea, s) => .addr ea s
  | (.overflow mode base index, s) => .overflow mode base index s

/-- What `resolve` answers, as the pseudocode gives it. -/
def answerOfResolved : Resolved × State → Pseudocode.Answer
  | (.imm v, s) => .imm v s
  | (.loc l, s) => answerOfLocated (l, s)

theorem fetchWord_eq (s : State) :
    Pseudocode.fetchWord s = (hiLo (s.memRead (s.pc + 1#16)) (s.memRead s.pc), s.fetched 2) := by
  rw [hiLo_eq_ofNat]
  rfl

theorem pseudocode_readPtrZP_eq (s : State) (p : Byte) :
    Pseudocode.readPtrZP s p.toNat = ((s.readPtrZP p).1.toNat, (s.readPtrZP p).2) := by
  rw [State.readPtrZP_toNat]
  rfl

theorem addIndex_eq (s : State) (ctx : Ctx) (mode : IndexedMode) (base : Addr) (index : Byte) :
    Pseudocode.addIndex s ctx mode base.toNat index = answerOfLocated (s.indexed ctx mode base index) := by
  unfold Pseudocode.addIndex State.indexed
  obtain hover | hfits := Nat.lt_or_ge 0xFFFF (base.toNat + index.toNat)
  · simp [hover, answerOfLocated]
  · have hea : BitVec.ofNat 16 (base.toNat + index.toNat) = base + zext16 index := by
      rw [← add_zext16_toNat hfits, BitVec.ofNat_toNat, BitVec.setWidth_eq]
    have hcross := pageCross_iff_xor base (base + zext16 index)
    rw [add_zext16_toNat hfits] at hcross
    cases ctx with
    | store => simp [Nat.not_lt.mpr hfits, hea, answerOfLocated]
    | load =>
      cases hc : pageCross base (base + zext16 index) <;>
        simp [Nat.not_lt.mpr hfits, hea, ← hcross, hc, answerOfLocated]

/-- The word fetched after the opcode is JSR's target, its low byte at PC + 1 (44_jsr R190). -/
theorem fetchWord_opcodeFetched (s : State) : Pseudocode.fetchWord s.opcodeFetched =
    (hiLo (s.memRead (s.pc + 2#16)) (s.memRead (s.pc + 1#16)), s.opcodeFetched.fetched 2) := by
  have hpc : s.pc + 1#16 + 1#16 = s.pc + 2#16 := BitVec.add_assoc s.pc 1#16 1#16
  rw [fetchWord_eq, State.opcodeFetched_pc, hpc]
  rfl

/-- The two resolvers agree on the operand whose bytes stand at PC. -/
theorem resolve_eq (s : State) (mode : AddrMode) (ctx : Ctx) :
    Pseudocode.resolve s mode ctx =
      answerOfResolved (s.resolve ctx (operandOfBytes mode (s.memRead s.pc) (s.memRead (s.pc + 1#16)))) := by
  have hadd (z w : Byte) : (z.toNat + w.toNat) % 256 = (z + w).toNat := (BitVec.toNat_add z w).symm
  have hsum (z w : Byte) : BitVec.ofNat 16 ((z.toNat + w.toNat) % 256) = zext16 (z + w) := by
    rw [hadd, zext16_eq_ofNat]
  cases mode with
  | immediate => rfl
  | zeroPage => exact congrArg (Pseudocode.Answer.addr · _) (zext16_eq_ofNat _).symm
  | zeroPageX => exact congrArg (Pseudocode.Answer.addr · _) (hsum _ _)
  | zeroPageY => exact congrArg (Pseudocode.Answer.addr · _) (hsum _ _)
  | absolute | absoluteTarget =>
    rw [Pseudocode.resolve, fetchWord_eq]
    rfl
  | absoluteX | absoluteY =>
    rw [Pseudocode.resolve, fetchWord_eq]
    exact addIndex_eq _ _ _ _ _
  | indirectX =>
    simp only [Pseudocode.resolve, hadd, pseudocode_readPtrZP_eq, BitVec.ofNat_toNat, BitVec.setWidth_eq]
    rfl
  | indirectY =>
    simp only [Pseudocode.resolve, pseudocode_readPtrZP_eq, addIndex_eq]
    rfl

/-- The opcode fetch leaves PC at the first operand byte. -/
theorem resolve_opcodeFetched (s : State) (mode : AddrMode) (ctx : Ctx) :
    Pseudocode.resolve s.opcodeFetched mode ctx = answerOfResolved
      (s.opcodeFetched.resolve ctx (operandOfBytes mode (s.memRead (s.pc + 1#16)) (s.memRead (s.pc + 2#16)))) := by
  have hpc : s.pc + 1#16 + 1#16 = s.pc + 2#16 := BitVec.add_assoc s.pc 1#16 1#16
  rw [resolve_eq, State.opcodeFetched_pc, hpc]
  rfl

/-- The flags read off the value as a number are those of `updZN` (42_loads R140). -/
theorem finishLoad_eq (s : State) (sel : Sel) (v : Byte) :
    { Pseudocode.finishLoad s sel v with mode := .idle } = s.loadInto sel v := by
  have hz : decide (v.toNat = 0) = (v == 0#8) :=
    decide_eq_decide.mpr (BitVec.toNat_inj (x := v) (y := 0#8))
  have hn : decide (128 ≤ v.toNat) = v.getLsbD 7 := by
    rw [← BitVec.msb_eq_getLsbD_last (w := 8), BitVec.msb_eq_decide]
  simp only [Pseudocode.finishLoad, State.loadInto, State.updZN, Status.updZN, State.complete, hz, hn]

/-- The generic load is the load rule of the pseudocode, where the operand's bytes stand at PC (42_loads R141). -/
theorem load_eq_runForm {s : State} {sel : Sel} {mode : AddrMode} {o : Operand}
    (ho : o = operandOfBytes mode (s.memRead (s.pc + 1#16)) (s.memRead (s.pc + 2#16))) :
    load sel o s = .next (Pseudocode.runForm (.ofLoad sel mode) s.pc s.opcodeFetched) := by
  have hres : Pseudocode.resolve s.opcodeFetched mode .load = answerOfResolved (s.opcodeFetched.resolve .load o) := by
    rw [resolve_opcodeFetched, ho]
  rw [load]
  simp only [Pseudocode.runForm, Form.ofLoad, hres]
  obtain ⟨r, t⟩ := s.opcodeFetched.resolve .load o
  cases r with
  | imm v => exact congrArg _ (finishLoad_eq t sel v).symm
  | loc l =>
    cases l with
    | addr ea => exact congrArg _ (finishLoad_eq (t.charge 1) sel (t.memRead ea)).symm
    | overflow mode base index => rfl

/-- The generic store is the store rule of the pseudocode, where the operand's bytes stand at PC (43_stores R170). -/
theorem store_eq_runForm {s : State} {sel : Sel} {mode : AddrMode} {m : MemOperand}
    (hm : .mem m = operandOfBytes mode (s.memRead (s.pc + 1#16)) (s.memRead (s.pc + 2#16))) :
    store sel m s = .next (Pseudocode.runForm (.ofStore sel mode) s.pc s.opcodeFetched) := by
  have hres : Pseudocode.resolve s.opcodeFetched mode .store =
      answerOfLocated (s.opcodeFetched.locate .store m) := by
    rw [resolve_opcodeFetched, ← hm]
    rfl
  rw [store]
  simp only [Pseudocode.runForm, Form.ofStore, hres]
  obtain ⟨l, t⟩ := s.opcodeFetched.locate .store m
  cases l with
  | addr ea => rfl
  | overflow mode base index => rfl

/-- JSR is the rule of the pseudocode, where its target stands at PC (44_jsr R190). -/
theorem execJsr_eq_runForm (s : State) :
    execJsr (hiLo (s.memRead (s.pc + 2#16)) (s.memRead (s.pc + 1#16))) s =
      .next (Pseudocode.runForm .ofJsr s.pc s.opcodeFetched) := by
  have hstack (sp : Byte) : BitVec.ofNat 16 (0x0100 + sp.toNat) = 0x0100#16 + zext16 sp := by
    rw [zext16_eq_ofNat, BitVec.ofNat_add]
  have hhigh (w : Addr) : BitVec.ofNat 8 (w.toNat / 256) = highByte w := by
    rw [← highByte_toNat, BitVec.ofNat_toNat, BitVec.setWidth_eq]
  have hlow (w : Addr) : BitVec.ofNat 8 (w.toNat % 256) = lowByte w := by
    rw [← lowByte_toNat, BitVec.ofNat_toNat, BitVec.setWidth_eq]
  simp only [Pseudocode.runForm, Form.ofJsr, fetchWord_opcodeFetched, hstack, hhigh, hlow]
  rfl

/-- An instruction whose operand bytes stand after its opcode is the pseudocode's rule of its form. -/
theorem exec_eq_runForm {s : State} {i : Instr} {op : Byte}
    (h : instrOf op (s.memRead (s.pc + 1#16)) (s.memRead (s.pc + 2#16)) = some i) :
    exec i s = .next (Pseudocode.runForm i.form s.pc s.opcodeFetched) := by
  cases he : i.form.effect with
  | load =>
    obtain ⟨sel, o, hform, ho, hexec⟩ := exec_load_operand he
    rw [hexec, hform]
    exact load_eq_runForm (instrOperand_of_instrOf h o ho)
  | store =>
    obtain ⟨sel, m, hform, ho, hexec⟩ := exec_store_operand he
    rw [hexec, hform]
    exact store_eq_runForm (instrOperand_of_instrOf h _ ho)
  | jsr =>
    obtain ⟨target, rfl⟩ := jsr_of_effect he
    obtain rfl : target = _ := absBytes_eq_iff.mp (instrOf_eq_some_iff.mp h).2
    exact execJsr_eq_runForm s

theorem loopBody_of_spent {s : State} (hr : s.remaining ≤ 0) : Pseudocode.loopBody s = s.endCall := if_pos hr

theorem loopBody_of_illegal {s : State} (hr : 0 < s.remaining) (hop : decodeOpcode (s.memRead s.pc) = none) :
    Pseudocode.loopBody s = s.raiseUnsupportedOpcode := by
  have hop' : decodeOpcode (State.memRead { s with mode := .executing } s.pc) = none := hop
  simp only [Pseudocode.loopBody, if_neg (Int.not_le.mpr hr), State.fetchByte, hop']
  rfl

theorem loopBody_of_legal {s : State} {f : Form} (hr : 0 < s.remaining)
    (hop : decodeOpcode (s.memRead s.pc) = some f) :
    Pseudocode.loopBody s = Pseudocode.runForm f s.pc s.opcodeFetched := by
  have hop' : decodeOpcode (State.memRead { s with mode := .executing } s.pc) = some f := hop
  simp only [Pseudocode.loopBody, if_neg (Int.not_le.mpr hr), State.fetchByte, hop']
  rfl

/-- Three bytes are enough for every instruction, so the decoder answers as the opcode table does. -/
theorem decode_fetchBytes_of_some {s : State} {i : Instr}
    (h : instrOf (s.memRead s.pc) (s.memRead (s.pc + 1#16)) (s.memRead (s.pc + 2#16)) = some i) :
    ∃ rest, decode s.fetchBytes = .ok (i, rest) := by
  rw [State.fetchBytes_eq]
  exact ⟨_, decode_cons_eq_ok_iff.mpr ⟨h, operandCount_le_two i.form.mode, rfl⟩⟩

theorem runInstruction_eq_loopBody {s : State} (hr : 0 < s.remaining) :
    s.runInstruction = .next (Pseudocode.loopBody s) := by
  have hform : _ = decodeOpcode (s.memRead s.pc) :=
    formReadFromOpcodeAlone (s.memRead s.pc) (s.memRead (s.pc + 1#16)) (s.memRead (s.pc + 2#16))
  cases hi : instrOf (s.memRead s.pc) (s.memRead (s.pc + 1#16)) (s.memRead (s.pc + 2#16)) with
  | none =>
    rw [hi] at hform
    rw [loopBody_of_illegal hr hform.symm]
    simp [State.runInstruction, State.fetchBytes_eq, decode, hi]
  | some i =>
    rw [hi] at hform
    obtain ⟨rest, hdecode⟩ := decode_fetchBytes_of_some hi
    rw [loopBody_of_legal hr hform.symm, State.runInstruction_of_decode_ok hdecode, exec_eq_runForm hi]

/-- Settles O47: with budget left the bytes read ahead decode as the opcode byte does, and each generic operation is its
rule of the pseudocode. -/
theorem stepMatchesPseudocode : Obligations.StepMatchesPseudocode := by
  intro s hm hc
  have hs : s.Running := ⟨hm, hc⟩
  obtain hspent | hbudget := le_or_gt s.remaining 0
  · rw [hs.step_of_spent hspent, loopBody_of_spent hspent]
  · rw [hs.step_of_budget hbudget, runInstruction_eq_loopBody hbudget]

end Sys2Proof.Machine

/-! ## Addressing modes (41_addressing_modes): the zero-page pointer, the page-cross test, and the overflow of an
indexed sum -/

namespace Sys2Proof.Machine

/-! ### The zero-page pointer and the page-cross test (41_addressing_modes R111, R112) -/

theorem ptrHighAddr_true_toNat (p : Byte) : (ptrHighAddr true p).toNat = (p.toNat + 1) % 256 := by
  simp [ptrHighAddr, BitVec.toNat_add]

/-- Without the wrap the second byte of the pointer at 0xFF is at 0x0100. -/
theorem ptrHighAddr_false_toNat (p : Byte) : (ptrHighAddr false p).toNat = p.toNat + 1 := by
  have hp : p.toNat < 256 := p.isLt
  rw [ptrHighAddr, if_neg nofun, BitVec.toNat_add, zext16_toNat]
  exact Nat.mod_eq_of_lt (by simp; omega)

theorem State.readPtrZPWith_eq (wrap : Bool) (s : State) (p : Byte) :
    s.readPtrZPWith wrap p =
      (BitVec.ofNat 16
          (Expected.word (Memory.read s.mem p.toNat) (Memory.read s.mem (ptrHighAddr wrap p).toNat)),
        { s with remaining := s.remaining - 2 }) := by
  rw [State.readPtrZPWith, State.charge_charge, hiLo_eq_ofNat, State.memRead, State.memRead, zext16_toNat]
  rfl

/-- Settles O34: the parameter only picks the address of the second byte. -/
theorem zeroPagePointerRead : Obligations.ZeroPagePointerRead := by
  intro s p
  refine ⟨?_, ?_, rfl⟩
  · rw [State.readPtrZPWith_eq, ptrHighAddr_true_toNat]
  · rw [State.readPtrZPWith_eq, ptrHighAddr_false_toNat]

/-- Settles O35. -/
theorem pageCrossIsHighByteChange : Obligations.PageCrossIsHighByteChange := pageCross_iff

/-! ### The indexed sum that overflows (41_addressing_modes R114) -/

/-- The indexed 16-bit sum of a memory operand, where its mode has one, stays within 0xFFFF. -/
def MemOperand.SumFits (s : State) : MemOperand → Prop
  | .absoluteX base => base.toNat + s.x.toNat ≤ 0xFFFF
  | .absoluteY base => base.toNat + s.y.toNat ≤ 0xFFFF
  | .indirectY z => (s.readPtrZP z).1.toNat + s.y.toNat ≤ 0xFFFF
  | .zeroPage _ | .zeroPageX _ | .zeroPageY _ | .absolute _ | .indirectX _ => True

theorem sumFits_iff_of_memOperand {i : Instr} {o : MemOperand} (ho : memOperand i = some o) (s : State) :
    SumFits i s ↔ o.SumFits s := by
  cases i <;> cases ho <;> rfl

theorem sumFits_of_memOperand_none {i : Instr} (ho : memOperand i = none) (s : State) : SumFits i s := by
  cases i <;> cases ho <;> trivial

theorem State.indexed_addr_iff (s : State) (ctx : Ctx) (mode : IndexedMode) (base : Addr) (index : Byte) :
    (∃ ea, (s.indexed ctx mode base index).1 = .addr ea) ↔ base.toNat + index.toNat ≤ 0xFFFF := by
  obtain ⟨hover, h⟩ | ⟨hfits, k, -, -, h⟩ := s.indexed_cases ctx mode base index <;> rw [h]
  · exact iff_of_false nofun (Nat.not_le.mpr hover)
  · exact iff_of_true ⟨_, rfl⟩ hfits

/-- A resolver gives an address exactly when the operand's sum fits. -/
theorem State.locate_addr_iff (s : State) (ctx : Ctx) (o : MemOperand) :
    (∃ ea, (s.locate ctx o).1 = .addr ea) ↔ o.SumFits s := by
  cases o with
  | zeroPage | zeroPageX | zeroPageY | absolute | indirectX => exact iff_of_true ⟨_, rfl⟩ trivial
  | absoluteX | absoluteY | indirectY => exact State.indexed_addr_iff _ _ _ _ _

theorem located_of_memOperand {i : Instr} {o : MemOperand} (ho : memOperand i = some o) (s : State) :
    located i s = some (s.opcodeFetched.locate (if i.form.effect = .store then .store else .load) o).1 := by
  rw [located, ho, Option.map_some]

/-- The opcode fetch changes neither the index registers nor the pointer the sum is taken from. -/
theorem MemOperand.sumFits_opcodeFetched (s : State) (o : MemOperand) : o.SumFits s.opcodeFetched ↔ o.SumFits s := by
  cases o <;> rfl

theorem located_addr_iff_sumFits {i : Instr} {o : MemOperand} (ho : memOperand i = some o) (s : State) :
    (∃ ea, located i s = some (.addr ea)) ↔ SumFits i s := by
  simp only [located_of_memOperand ho, Option.some.injEq, State.locate_addr_iff, MemOperand.sumFits_opcodeFetched,
    sumFits_iff_of_memOperand ho]

/-- A load from memory completes where its operand is located, and takes AddressOverflow where the sum overflows
(42_loads R141). -/
theorem load_mem_cases (sel : Sel) (o : MemOperand) (s : State) :
    (∃ ea t, (s.opcodeFetched.locate .load o).1 = .addr ea ∧ load sel (.mem o) s = .next t ∧ t.mode = .idle) ∨
    (∃ mode base index, (s.opcodeFetched.locate .load o).1 = .overflow mode base index ∧
      load sel (.mem o) s = .next (s.raiseAddressOverflow mode base index s.pc)) := by
  obtain ⟨k, -, -, ht⟩ := s.opcodeFetched.locate_state .load o
  rw [load, State.resolve, ht]
  cases (s.opcodeFetched.locate .load o).1 with
  | addr ea => exact .inl ⟨ea, _, rfl, rfl, rfl⟩
  | overflow mode base index => exact .inr ⟨mode, base, index, rfl, rfl⟩

/-- An instruction that reaches memory completes where its operand is located, and takes AddressOverflow with what was
located where its sum overflows. -/
theorem exec_cases_of_memOperand {i : Instr} {o : MemOperand} (ho : memOperand i = some o) (s : State) :
    (∃ ea t, located i s = some (.addr ea) ∧ exec i s = .next t ∧ t.mode = .idle) ∨
    (∃ mode base index, located i s = some (.overflow mode base index) ∧
      exec i s = .next (s.raiseAddressOverflow mode base index s.pc)) := by
  cases he : i.form.effect with
  | load =>
    obtain ⟨sel, _, -, hmem, hexec⟩ := exec_load he
    obtain rfl := hmem o ho
    have hloc : located i s = some (s.opcodeFetched.locate .load o).1 := by simp [located_of_memOperand ho, he]
    rw [hexec, hloc]
    simpa only [Option.some.injEq] using load_mem_cases sel o s
  | store =>
    obtain ⟨_, -, ⟨ea, n, k, -, -, hea, hexec⟩ | hover⟩ := exec_store_cases he s
    · exact .inl ⟨ea, _, hea, hexec, rfl⟩
    · exact .inr hover
  | jsr =>
    obtain ⟨target, rfl⟩ := jsr_of_effect he
    cases ho

/-- An Immediate load and JSR complete (41_addressing_modes R115, 44_jsr R190). -/
theorem exec_of_memOperand_none {i : Instr} (ho : memOperand i = none) (s : State) :
    ∃ t, exec i s = .next t ∧ t.mode = .idle := by
  cases i <;> cases ho <;> exact ⟨_, rfl, rfl⟩

/-- Settles O23: an instruction that reaches memory completes exactly when its operand is located, which is when its
sum fits; the others have no sum. -/
theorem overflowExactlyWhenSumExceeds : Obligations.OverflowExactlyWhenSumExceeds := by
  intro i s
  cases ho : memOperand i with
  | none =>
    obtain ⟨t, hexec, hmode⟩ := exec_of_memOperand_none ho s
    exact ⟨t, hexec, fun _ => hmode, absurd (sumFits_of_memOperand_none ho s)⟩
  | some o =>
    have hfits := located_addr_iff_sumFits ho s
    obtain ⟨ea, t, hea, hexec, hmode⟩ | ⟨mode, base, index, hover, hexec⟩ := exec_cases_of_memOperand ho s
    · exact ⟨t, hexec, fun _ => hmode, absurd (hfits.mp ⟨ea, hea⟩)⟩
    · have hnot : ¬ SumFits i s := by simp [← hfits, hover]
      exact ⟨_, hexec, fun h => absurd h hnot, fun _ => ⟨rfl, rfl, mode, base, index, hover, rfl⟩⟩

end Sys2Proof.Machine

/-! ## Loads (42_loads): the state a load that completes leaves, in the numbers of the rules, said once for all forms -/

namespace Sys2Proof.Machine

/-! ### Where a memory operand is located (41_addressing_modes R116 to R126) -/

/-- The effective address of a memory operand as a number; of an indexed 16-bit mode the sum, which may exceed
0xFFFF. -/
def MemOperand.address (s : State) : MemOperand → Nat
  | .zeroPage z => z.toNat
  | .zeroPageX z => (z.toNat + s.x.toNat) % 256
  | .zeroPageY z => (z.toNat + s.y.toNat) % 256
  | .absolute a => a.toNat
  | .absoluteX base => base.toNat + s.x.toNat
  | .absoluteY base => base.toNat + s.y.toNat
  | .indirectX z => Expected.pointer s ((z.toNat + s.x.toNat) % 256)
  | .indirectY z => Expected.pointer s z.toNat + s.y.toNat

/-- An indexed sum that fits 16 bits is the address. -/
theorem State.indexed_of_fits (s : State) (ctx : Ctx) (mode : IndexedMode) {base : Addr} {index : Byte}
    (h : base.toNat + index.toNat ≤ 0xFFFF) :
    ∃ ea, (s.indexed ctx mode base index).1 = .addr ea ∧ ea.toNat = base.toNat + index.toNat := by
  obtain ⟨hover, -⟩ | ⟨-, k, -, -, hindexed⟩ := s.indexed_cases ctx mode base index
  · exact absurd hover (Nat.not_lt.mpr h)
  · exact ⟨_, congrArg Prod.fst hindexed, add_zext16_toNat h⟩

/-- Where its sum fits, an operand is located at its address. -/
theorem State.locate_of_sumFits {s : State} {o : MemOperand} (ctx : Ctx) (h : o.SumFits s) :
    ∃ ea, (s.locate ctx o).1 = .addr ea ∧ ea.toNat = o.address s := by
  have hzp (z w : Byte) : (zext16 (z + w)).toNat = (z.toNat + w.toNat) % 256 := by
    rw [zext16_toNat, BitVec.toNat_add]
  cases o with
  | zeroPage z => exact ⟨_, rfl, zext16_toNat z⟩
  | zeroPageX z => exact ⟨_, rfl, hzp z s.x⟩
  | zeroPageY z => exact ⟨_, rfl, hzp z s.y⟩
  | absolute a => exact ⟨_, rfl, rfl⟩
  | absoluteX base => exact (s.fetched 2).indexed_of_fits ctx .absoluteX h
  | absoluteY base => exact (s.fetched 2).indexed_of_fits ctx .absoluteY h
  | indirectX z =>
    refine ⟨_, rfl, ?_⟩
    rw [State.readPtrZP_toNat, BitVec.toNat_add]
    rfl
  | indirectY z =>
    rw [MemOperand.address, ← State.readPtrZP_toNat]
    exact ((s.fetched 1).readPtrZP z).2.indexed_of_fits ctx .indirectY h

/-- An instruction whose sum overflows has taken AddressOverflow as the rules expect it (60_exceptions R202 to R204). -/
theorem overflowed_of_located {i : Instr} {s : State} {mode : IndexedMode} {base : Addr} {index : Byte}
    (h : located i s = some (.overflow mode base index)) :
    Expected.overflowed s mode base.toNat index (exec i s) := by
  obtain ⟨o, ho, -⟩ := Option.map_eq_some_iff.mp h
  obtain ⟨ea, t, hea, -⟩ | ⟨mode', base', index', hover, hexec⟩ := exec_cases_of_memOperand ho s
  · cases hea.symm.trans h
  · cases hover.symm.trans h
    refine ⟨_, hexec, rfl, ?_, rfl⟩
    rw [BitVec.ofNat_toNat, BitVec.setWidth_eq]
    rfl

/-- An indexed sum that exceeds 16 bits is located as an overflow (41_addressing_modes R114). -/
theorem State.indexed_of_exceeds (s : State) (ctx : Ctx) (mode : IndexedMode) {base : Addr} {index : Byte}
    (h : 0xFFFF < base.toNat + index.toNat) : (s.indexed ctx mode base index).1 = .overflow mode base index := by
  rw [State.indexed, if_pos h]

/-- An instruction that completes has a sum that fits. -/
theorem sumFits_of_completes {i : Instr} {s t : State} (h : exec i s = .next t) (hm : t.mode ≠ .faulted) :
    SumFits i s := by
  obtain ⟨u, hexec, -, hover⟩ := overflowExactlyWhenSumExceeds i s
  cases hexec.symm.trans h
  exact not_imp_comm.mp (fun hnot => (hover hnot).1) hm

/-! ### The state after a load that completes (42_loads R140, R141) -/

/-- A completed load of `v` into `R[sel]`. -/
def completedLoad (s : State) (sel : Sel) (len : Nat) (cycles : Int) (v : Byte) : State :=
  match sel with
  | .accumulator => Expected.lda s len cycles v
  | .registerX => Expected.ldx s len cycles v
  | .registerY => Expected.ldy s len cycles v

section
variable (s : State) (sel : Sel) (len : Nat) (cycles : Int) (v : Byte)

@[simp] theorem completedLoad_sp : (completedLoad s sel len cycles v).sp = s.sp := by
  cases sel <;> rfl
@[simp] theorem completedLoad_p : (completedLoad s sel len cycles v).p = Expected.flags s.p v := by
  cases sel <;> rfl
@[simp] theorem completedLoad_mem : (completedLoad s sel len cycles v).mem = s.mem := by
  cases sel <;> rfl
@[simp] theorem completedLoad_inCall : (completedLoad s sel len cycles v).inCall = s.inCall := by
  cases sel <;> rfl
@[simp] theorem completedLoad_requested : (completedLoad s sel len cycles v).requested = s.requested := by
  cases sel <;> rfl
@[simp] theorem completedLoad_fault : (completedLoad s sel len cycles v).fault = s.fault := by
  cases sel <;> rfl
@[simp] theorem completedLoad_draws : (completedLoad s sel len cycles v).draws = s.draws := by
  cases sel <;> rfl
@[simp] theorem completedLoad_reg (sel' : Sel) :
    (completedLoad s sel len cycles v).reg sel' = if sel' = sel then v else s.reg sel' := by
  cases sel <;> cases sel' <;> rfl

end

/-- `updZN` in numbers (42_loads R140), as the pseudocode's end of a load sets Z and N. -/
theorem flags_eq_updZN (p : Status) (v : Byte) : Expected.flags p v = p.updZN v :=
  congrArg State.p (finishLoad_eq { State.reset with p := p } .accumulator v)

/-- The end of a load from a state that differs from `s` in PC, the counter and the mode alone. -/
theorem State.loadInto_eq_completedLoad {s u : State} {len : Nat} {cycles : Int} (sel : Sel) (v : Byte)
    (hpc : u.pc = s.pc + BitVec.ofNat 16 len) (hremaining : u.remaining = s.remaining - cycles)
    (hrest : { u with pc := s.pc, remaining := s.remaining, mode := s.mode } = s) :
    u.loadInto sel v = completedLoad s sel len cycles v := by
  have hrun : { u with mode := .idle } = Expected.run s len cycles := by
    rw [Expected.run, BitVec.ofNat_add, BitVec.ofNat_toNat, BitVec.setWidth_eq, ← hpc, ← hremaining, ← hrest]
  have hidle : u.loadInto sel v = State.loadInto { u with mode := .idle } sel v := by
    cases sel <;> rfl
  rw [hidle, hrun, State.loadInto, State.updZN, setReg_p, ← flags_eq_updZN]
  cases sel <;> rfl

/-- The value an operand that is located gives a load. -/
def Operand.value (s : State) : Operand → Byte
  | .immediate v => v
  | .mem o => Memory.read s.mem (o.address s)

/-- The indexed 16-bit sum of an operand, where it has one, stays within 0xFFFF. -/
def Operand.SumFits (s : State) : Operand → Prop
  | .immediate _ => True
  | .mem o => o.SumFits s

theorem sumFits_iff_of_instrOperand {i : Instr} {o : Operand} (ho : instrOperand i = some o) (s : State) :
    SumFits i s ↔ o.SumFits s := by
  cases i <;> cases ho <;> rfl

/-- A load that ends with `v`, having changed nothing but PC, the counter and the mode before. -/
theorem load_eq_completedLoad {sel : Sel} {o : Operand} {s u : State} {v : Byte}
    (h : load sel o s = .next (u.loadInto sel v))
    (hrest : { u with pc := s.pc, remaining := s.remaining, mode := s.mode } = s) :
    load sel o s = .next (completedLoad s sel (1 + o.size) (1 + o.cycles .load s) v) := by
  obtain ⟨hpc, hremaining⟩ := load_consumes h (by simp [State.loadInto])
  rw [State.loadInto_pc] at hpc
  rw [State.loadInto_remaining] at hremaining
  rw [h, State.loadInto_eq_completedLoad sel v hpc hremaining hrest]

/-- The generic load where its operand's sum fits: past its bytes, its cycles charged, its value loaded. -/
theorem load_of_sumFits (sel : Sel) {o : Operand} {s : State} (h : o.SumFits s) :
    load sel o s = .next (completedLoad s sel (1 + o.size) (1 + o.cycles .load s) (o.value s)) := by
  cases o with
  | immediate v => exact load_eq_completedLoad (u := s.opcodeFetched.fetched 1) rfl rfl
  | mem m =>
    obtain ⟨ea, hea, haddress⟩ := State.locate_of_sumFits .load ((m.sumFits_opcodeFetched s).mpr h)
    obtain ⟨k, -, -, hu⟩ := s.opcodeFetched.locate_state .load m
    have hvalue : (Operand.mem m).value s = s.memRead ea := by
      rw [State.memRead, haddress]
      cases m <;> rfl
    rw [hvalue]
    refine load_eq_completedLoad (u := (s.opcodeFetched.locate .load m).2.charge 1) ?_ ?_
    · rw [load, State.resolve, hea, hu]
      rfl
    · rw [hu]
      rfl

/-- A load instruction where its sum fits: the column of 30_encoding R73 is charged and PC is past its bytes. -/
theorem exec_load_of_sumFits {i : Instr} {s : State} (sel : Sel) (o : Operand) (he : i.form.effect = .load)
    (hsel : i.form.sel = some sel) (ho : instrOperand i = some o) (hfits : SumFits i s) :
    exec i s = .next
      (completedLoad s sel i.length (Expected.baseCycles i.form + Expected.extraCycle i s) (o.value s)) := by
  obtain ⟨sel', o', hform, ho', hexec⟩ := exec_load_operand he
  obtain rfl : sel' = sel := Option.some.inj ((congrArg Form.sel hform).symm.trans hsel)
  obtain rfl : o' = o := Option.some.inj (ho'.symm.trans ho)
  rw [hexec, load_of_sumFits sel' ((sumFits_iff_of_instrOperand ho s).mp hfits), length_eq_of_instrOperand ho,
    columnCycles_eq_of_instrOperand ho (congrArg Form.ctx hform)]

/-- What a load that completes can leave: the register it names loaded, Z and N from the value. -/
theorem exec_load_completes {i : Instr} {s t : State} (he : i.form.effect = .load) (h : exec i s = .next t)
    (hm : t.mode ≠ .faulted) :
    ∃ sel len cycles v, i.form.sel = some sel ∧ t = completedLoad s sel len cycles v := by
  obtain ⟨sel, o, hform, ho, -⟩ := exec_load_operand he
  have hsel : i.form.sel = some sel := congrArg Form.sel hform
  cases (exec_load_of_sumFits sel o he hsel ho (sumFits_of_completes h hm)).symm.trans h
  exact ⟨sel, _, _, _, hsel, rfl⟩

/-- Settles O16, by the fields of a completed load. -/
theorem loadFrame : Obligations.LoadFrame := by
  intro i s t he h hm
  obtain ⟨sel, len, cycles, v, hsel, rfl⟩ := exec_load_completes he h hm
  refine ⟨by simp, fun sel' hne => ?_, by simp [Expected.flags], by simp, by simp, by simp, by simp, by simp⟩
  have hsel' : sel' ≠ sel := fun heq => hne (heq ▸ hsel)
  rw [completedLoad_reg, if_neg hsel']

/-! ### The flags (42_loads R160) -/

/-- A store or JSR that completes writes no flag (43_stores R170, 44_jsr R190). -/
theorem exec_status_of_not_load {i : Instr} {s t : State} (he : i.form.effect ≠ .load) (h : exec i s = .next t)
    (hm : t.mode ≠ .faulted) : t.p = s.p := by
  cases exec_result h with
  | load sel v n k hload => exact absurd hload he
  | store sel ea n k => rfl
  | jsr target => rfl
  | overflow mode base index => exact absurd rfl hm

/-- Settles O20: a load sets Z and N from the number in its register; any other instruction keeps P. -/
theorem flagOutcomes : Obligations.FlagOutcomes := by
  intro i s t h hm
  by_cases he : i.form.effect = .load
  · obtain ⟨sel, len, cycles, v, hsel, rfl⟩ := exec_load_completes he h hm
    refine ⟨fun sel' _ hsel' => ?_, absurd he, by simp [Expected.flags]⟩
    obtain rfl : sel = sel' := Option.some.inj (hsel.symm.trans hsel')
    simp only [completedLoad_reg, completedLoad_p, Expected.flags, if_true, decide_eq_true_eq, decide_eq_false_iff_not]
    omega
  · rw [exec_status_of_not_load he h hm]
    exact ⟨fun _ hload => absurd hload he, fun _ => ⟨rfl, rfl⟩, rfl, rfl, rfl, rfl, rfl⟩

/-! ### The next state of every form (42_loads R142 to R159) -/

/-- Settles O1: an Immediate operand is located nowhere and fits. -/
theorem loadImmediateResult : Obligations.LoadImmediateResult :=
  fun v _ => ⟨
    ⟨rfl, exec_load_of_sumFits .accumulator (.immediate v) rfl rfl rfl trivial⟩,
    ⟨rfl, exec_load_of_sumFits .registerX (.immediate v) rfl rfl rfl trivial⟩,
    ⟨rfl, exec_load_of_sumFits .registerY (.immediate v) rfl rfl rfl trivial⟩⟩

/-- Settles O2: a Zero page operand has no sum to exceed 16 bits. -/
theorem loadZeroPageResult : Obligations.LoadZeroPageResult :=
  fun z _ => ⟨
    ⟨rfl, exec_load_of_sumFits .accumulator (.mem (.zeroPage z)) rfl rfl rfl trivial⟩,
    ⟨rfl, exec_load_of_sumFits .registerX (.mem (.zeroPage z)) rfl rfl rfl trivial⟩,
    ⟨rfl, exec_load_of_sumFits .registerY (.mem (.zeroPage z)) rfl rfl rfl trivial⟩⟩

/-- Settles O3: the sum of an indexed Zero page operand wraps and always fits. -/
theorem loadZeroPageIndexedResult : Obligations.LoadZeroPageIndexedResult :=
  fun z _ => ⟨
    ⟨rfl, exec_load_of_sumFits .accumulator (.mem (.zeroPageX z)) rfl rfl rfl trivial⟩,
    ⟨rfl, exec_load_of_sumFits .registerX (.mem (.zeroPageY z)) rfl rfl rfl trivial⟩,
    ⟨rfl, exec_load_of_sumFits .registerY (.mem (.zeroPageX z)) rfl rfl rfl trivial⟩⟩

/-- Settles O4: the operand is the word of the two bytes, and has no sum. -/
theorem loadAbsoluteResult : Obligations.LoadAbsoluteResult := by
  intro l h s
  dsimp only
  rw [← hiLo_eq_ofNat, ← hiLo_toNat]
  exact ⟨
    ⟨rfl, exec_load_of_sumFits .accumulator (.mem (.absolute (hiLo h l))) rfl rfl rfl trivial⟩,
    ⟨rfl, exec_load_of_sumFits .registerX (.mem (.absolute (hiLo h l))) rfl rfl rfl trivial⟩,
    ⟨rfl, exec_load_of_sumFits .registerY (.mem (.absolute (hiLo h l))) rfl rfl rfl trivial⟩⟩

/-- Settles O5: where the sum fits the load completes, where it does not the operand is located as an overflow. -/
theorem loadAbsoluteIndexedResult : Obligations.LoadAbsoluteIndexedResult := by
  intro l h s
  dsimp only
  rw [← hiLo_eq_ofNat, ← hiLo_toNat]
  refine ⟨rfl, rfl, rfl, rfl, fun hfits => ⟨?_, ?_⟩, fun hfits => ⟨?_, ?_⟩, fun hexceeds => ?_, fun hexceeds => ?_⟩
  · exact exec_load_of_sumFits .accumulator (.mem (.absoluteX (hiLo h l))) rfl rfl rfl hfits
  · exact exec_load_of_sumFits .registerY (.mem (.absoluteX (hiLo h l))) rfl rfl rfl hfits
  · exact exec_load_of_sumFits .accumulator (.mem (.absoluteY (hiLo h l))) rfl rfl rfl hfits
  · exact exec_load_of_sumFits .registerX (.mem (.absoluteY (hiLo h l))) rfl rfl rfl hfits
  · have hover := (s.opcodeFetched.fetched 2).indexed_of_exceeds .load .absoluteX hexceeds
    exact ⟨overflowed_of_located (congrArg some hover), overflowed_of_located (congrArg some hover)⟩
  · have hover := (s.opcodeFetched.fetched 2).indexed_of_exceeds .load .absoluteY hexceeds
    exact ⟨overflowed_of_located (congrArg some hover), overflowed_of_located (congrArg some hover)⟩

/-- Settles O6: the pointer's address wraps in the zero page, and no 16-bit sum is taken. -/
theorem loadIndirectXResult : Obligations.LoadIndirectXResult :=
  fun z _ => ⟨rfl, exec_load_of_sumFits .accumulator (.mem (.indirectX z)) rfl rfl rfl trivial⟩

/-- Settles O7: as for the Absolute indexed loads, with the pointer read from the zero page as the base. -/
theorem loadIndirectYResult : Obligations.LoadIndirectYResult := by
  intro z s
  dsimp only
  refine ⟨rfl, fun hfits => ?_, fun hexceeds => ?_⟩
  · rw [← State.readPtrZP_toNat] at hfits
    exact exec_load_of_sumFits .accumulator (.mem (.indirectY z)) rfl rfl rfl hfits
  · rw [← State.readPtrZP_toNat] at hexceeds ⊢
    have hover := ((s.opcodeFetched.fetched 1).readPtrZP z).2.indexed_of_exceeds .load .indirectY hexceeds
    exact overflowed_of_located (congrArg some hover)

end Sys2Proof.Machine

/-! ## Stores (43_stores): the state a store that completes leaves, said once for all forms -/

namespace Sys2Proof.Machine

/-! ### The state after a store that completes (43_stores R170) -/

/-- The opcode fetch moves no operand: its address is taken from the index registers and the zero page alone. -/
theorem MemOperand.address_opcodeFetched (s : State) (o : MemOperand) : o.address s.opcodeFetched = o.address s := by
  cases o <;> rfl

/-- Where its sum fits, an instruction that reaches memory is located at its operand's address. -/
theorem located_of_sumFits {i : Instr} {o : MemOperand} {s : State} (ho : memOperand i = some o) (h : SumFits i s) :
    ∃ ea, located i s = some (.addr ea) ∧ ea.toNat = o.address s := by
  have hfits : o.SumFits s.opcodeFetched := (o.sumFits_opcodeFetched s).mpr ((sumFits_iff_of_memOperand ho s).mp h)
  obtain ⟨ea, hea, haddress⟩ := State.locate_of_sumFits (if i.form.effect = .store then .store else .load) hfits
  exact ⟨ea, (located_of_memOperand ho s).trans (congrArg some hea), haddress.trans (o.address_opcodeFetched s)⟩

/-- A store charges no page-cross cycle of its own: its column of 30_encoding R73 has no "(+1)". -/
theorem extraCycle_of_store {i : Instr} (he : i.form.effect = .store) (s : State) : Expected.extraCycle i s = 0 := by
  cases i <;> cases he <;> rfl

/-- A store instruction where its sum fits: its register at its operand's address, PC past its bytes, the column of
30_encoding R73 charged. -/
theorem exec_store_of_sumFits {i : Instr} {s : State} (sel : Sel) (o : MemOperand) (he : i.form.effect = .store)
    (hsel : i.form.sel = some sel) (ho : memOperand i = some o) (hfits : SumFits i s) :
    exec i s = .next
      (Expected.stored s i.length (Expected.baseCycles i.form) (o.address s) (s.reg sel)) := by
  obtain ⟨ea, hea, haddress⟩ := located_of_sumFits ho hfits
  obtain ⟨sel', hsel', ⟨ea', n, k, -, -, hea', hexec⟩ | ⟨mode, base, index, hover, -⟩⟩ := exec_store_cases he s
  · obtain rfl : sel' = sel := Option.some.inj (hsel'.symm.trans hsel)
    obtain rfl : ea' = ea := Located.addr.inj (Option.some.inj (hea'.symm.trans hea))
    have hpc : s.pc + BitVec.ofNat 16 n = BitVec.ofNat 16 (s.pc.toNat + i.length) :=
      BitVec.eq_of_toNat_eq ((pcAfterInstruction i s _ hexec nofun).1 (by simp [he]))
    have hcycles : s.remaining - (s.remaining - k) = Expected.baseCycles i.form + Expected.extraCycle i s :=
      cyclesOfInstruction i s _ hexec nofun
    rw [extraCycle_of_store he, add_zero, sub_sub_cancel] at hcycles
    rw [hexec, hpc, hcycles, haddress]
    rfl
  · cases hover.symm.trans hea

/-- Settles O17: a store that completes has written the byte it locates, PC, the counter and the mode. -/
theorem storeFrame : Obligations.StoreFrame := by
  intro i s t hm he h hmode
  obtain ⟨sel, hsel, ⟨ea, n, k, -, -, hea, hexec⟩ | ⟨mode, base, index, -, hexec⟩⟩ := exec_store_cases he s <;>
    cases hexec.symm.trans h
  · refine ⟨rfl, rfl, rfl, rfl, rfl, rfl, rfl, rfl, rfl, fun ea' sel' hea' hsel' => ?_, fun ea' hea' a hne => ?_⟩ <;>
      obtain rfl : ea = ea' := Located.addr.inj (Option.some.inj (hea.symm.trans hea'))
    · obtain rfl : sel = sel' := Option.some.inj (hsel.symm.trans hsel')
      exact (Memory.read_write hm _ _ _).trans (if_pos rfl)
    · exact Memory.read_write_of_ne hm hne _
  · exact absurd rfl hmode

/-! ### The next state of every form (43_stores R171 to R183) -/

/-- Settles O8: a Zero page operand has no sum to exceed 16 bits. -/
theorem storeZeroPageResult : Obligations.StoreZeroPageResult :=
  fun z _ => ⟨
    ⟨rfl, exec_store_of_sumFits .accumulator (.zeroPage z) rfl rfl rfl trivial⟩,
    ⟨rfl, exec_store_of_sumFits .registerX (.zeroPage z) rfl rfl rfl trivial⟩,
    ⟨rfl, exec_store_of_sumFits .registerY (.zeroPage z) rfl rfl rfl trivial⟩⟩

/-- Settles O9: the sum of an indexed Zero page operand wraps and always fits. -/
theorem storeZeroPageIndexedResult : Obligations.StoreZeroPageIndexedResult :=
  fun z _ => ⟨
    ⟨rfl, exec_store_of_sumFits .accumulator (.zeroPageX z) rfl rfl rfl trivial⟩,
    ⟨rfl, exec_store_of_sumFits .registerX (.zeroPageY z) rfl rfl rfl trivial⟩,
    ⟨rfl, exec_store_of_sumFits .registerY (.zeroPageX z) rfl rfl rfl trivial⟩⟩

/-- Settles O10: the operand is the word of the two bytes, and has no sum. -/
theorem storeAbsoluteResult : Obligations.StoreAbsoluteResult := by
  intro l h s
  dsimp only
  rw [← hiLo_eq_ofNat, ← hiLo_toNat]
  exact ⟨
    ⟨rfl, exec_store_of_sumFits .accumulator (.absolute (hiLo h l)) rfl rfl rfl trivial⟩,
    ⟨rfl, exec_store_of_sumFits .registerX (.absolute (hiLo h l)) rfl rfl rfl trivial⟩,
    ⟨rfl, exec_store_of_sumFits .registerY (.absolute (hiLo h l)) rfl rfl rfl trivial⟩⟩

/-- Settles O11: where the sum fits the store completes, where it does not the operand is located as an overflow. -/
theorem storeAbsoluteIndexedResult : Obligations.StoreAbsoluteIndexedResult := by
  intro l h s
  dsimp only
  rw [← hiLo_eq_ofNat, ← hiLo_toNat]
  refine ⟨rfl, rfl, fun hfits => ?_, fun hfits => ?_, fun hexceeds => ?_, fun hexceeds => ?_⟩
  · exact exec_store_of_sumFits .accumulator (.absoluteX (hiLo h l)) rfl rfl rfl hfits
  · exact exec_store_of_sumFits .accumulator (.absoluteY (hiLo h l)) rfl rfl rfl hfits
  · have hover := (s.opcodeFetched.fetched 2).indexed_of_exceeds .store .absoluteX hexceeds
    exact overflowed_of_located (congrArg some hover)
  · have hover := (s.opcodeFetched.fetched 2).indexed_of_exceeds .store .absoluteY hexceeds
    exact overflowed_of_located (congrArg some hover)

/-- Settles O12: the pointer's address wraps in the zero page, and no 16-bit sum is taken. -/
theorem storeIndirectXResult : Obligations.StoreIndirectXResult :=
  fun z _ => ⟨rfl, exec_store_of_sumFits .accumulator (.indirectX z) rfl rfl rfl trivial⟩

/-- Settles O13: as for the Absolute indexed stores, with the pointer read from the zero page as the base. -/
theorem storeIndirectYResult : Obligations.StoreIndirectYResult := by
  intro z s
  dsimp only
  refine ⟨rfl, fun hfits => ?_, fun hexceeds => ?_⟩
  · rw [← State.readPtrZP_toNat] at hfits
    exact exec_store_of_sumFits .accumulator (.indirectY z) rfl rfl rfl hfits
  · rw [← State.readPtrZP_toNat] at hexceeds ⊢
    have hover := ((s.opcodeFetched.fetched 1).readPtrZP z).2.indexed_of_exceeds .store .indirectY hexceeds
    exact overflowed_of_located (congrArg some hover)

end Sys2Proof.Machine

/-! ## JSR (44_jsr): its stack bytes and its return address as numbers, and the next state at both disciplines -/

namespace Sys2Proof.Machine

/-! ### Stack addresses and address halves as numbers (10_state R22, 20_memory R58) -/

/-- A stack address does not leave page one. -/
theorem stackAddr_toNat (sp : Byte) : (0x0100#16 + zext16 sp).toNat = 0x0100 + sp.toNat := by
  rw [BitVec.toNat_add, zext16_toNat]
  have hsp := sp.isLt
  simp only [BitVec.toNat_ofNat]
  omega

theorem byte_sub_one_toNat (b : Byte) : (b - 1#8).toNat = (b.toNat + 255) % 256 := by
  rw [BitVec.toNat_sub, Nat.add_comm]
  rfl

theorem byte_sub_two_eq_ofNat (b : Byte) : b - 2#8 = BitVec.ofNat 8 (b.toNat + 254) := by
  rw [BitVec.ofNat_add, BitVec.ofNat_toNat, BitVec.setWidth_eq]
  exact BitVec.sub_eq_add_neg b 2#8

theorem highByte_eq_ofNat (w : Addr) : highByte w = BitVec.ofNat 8 (w.toNat / 256) := by
  rw [← highByte_toNat, BitVec.ofNat_toNat, BitVec.setWidth_eq]

theorem lowByte_eq_ofNat (w : Addr) : lowByte w = BitVec.ofNat 8 (w.toNat % 256) := by
  rw [← lowByte_toNat, BitVec.ofNat_toNat, BitVec.setWidth_eq]

/-- The two stack bytes JSR writes, the second one below the first in the stack page (44_jsr R190). -/
theorem writtenAddrs_jsr (target : Addr) (s : State) :
    writtenAddrs (.jsr target) s = [0x0100 + s.sp.toNat, 0x0100 + (s.sp.toNat + 255) % 256] := by
  rw [writtenAddrs, stackAddr_toNat, stackAddr_toNat, byte_sub_one_toNat]

/-! ### The frame and the next state (44_jsr R190, R191) -/

/-- Settles O18: JSR always completes, in the state `execJsr_eq` names, and the bytes it writes are its two stack
bytes. -/
theorem jsrFrame : Obligations.JsrFrame := by
  intro target s t hm h
  have hread (a : Nat) : a ∉ writtenAddrs (.jsr target) s → Memory.read t.mem a = Memory.read s.mem a :=
    onlyWrittenBytesChange (.jsr target) s t a hm h
  simp only [writtenAddrs_jsr, List.mem_pair, not_or] at hread
  cases (execJsr_eq target s).symm.trans h
  exact ⟨rfl, rfl, rfl, rfl, rfl, rfl, rfl, rfl, fun a hhigh hlow => hread a ⟨hhigh, hlow⟩⟩

/-- Settles O14: the operand bytes are the target's two halves, and the state JSR leaves is read in numbers. -/
theorem jsrResult : Obligations.JsrResult := by
  intro l h s
  dsimp only
  rw [← hiLo_eq_ofNat]
  refine ⟨rfl, (execJsr_eq (hiLo h l) s).trans ?_⟩
  rw [stackAddr_toNat, stackAddr_toNat, byte_sub_one_toNat, byte_sub_two_eq_ofNat, highByte_eq_ofNat, lowByte_eq_ofNat]
  rfl

/-- At `targetOverwrite` the return address goes into the target, low byte first, and SP stays (44_jsr R191). -/
theorem jsrWith_targetOverwrite_eq (target : Addr) (s : State) :
    jsrWith .targetOverwrite target s = .next { s with
      pc := target, remaining := s.remaining - 6, mode := .idle,
      mem := Memory.write (Memory.write s.mem target.toNat (lowByte (s.pc + 2#16)))
        (target + 1#16).toNat (highByte (s.pc + 2#16)) } := by
  have hret : s.pc + 1#16 + 2#16 - 1#16 = s.pc + 2#16 := by bv_omega
  have hcycles : s.remaining - 1 - 2 - 1 - 1 - 1 = s.remaining - 6 := by omega
  simp only [jsrWith, State.writeReturn, State.opcodeFetched, State.fetched_eq, State.memWrite, State.complete,
    State.charge, Nat.cast_one, Nat.cast_ofNat, hret, hcycles]

/-- Settles O15: the second write, one byte above the target modulo 65536, leaves the first one to be fetched. -/
theorem jsrTargetOverwriteResult : Obligations.JsrTargetOverwriteResult := by
  intro target s
  refine ⟨?_, fun hm => ?_⟩
  · rw [jsrWith_targetOverwrite_eq, highByte_eq_ofNat, lowByte_eq_ofNat]
    rfl
  · have hne : target.toNat ≠ (target + 1#16).toNat := by bv_omega
    exact (Memory.read_write_of_ne (Memory.wf_write hm target _) hne _).trans
      ((Memory.read_write hm _ _ _).trans (if_pos rfl))

end Sys2Proof.Machine

/-! ## Exceptions (60_exceptions): the entry of UnsupportedOpcode, and the end of a call at a fault -/

namespace Sys2Proof.Machine

/-! ### UnsupportedOpcode (R201) -/

/-- The entry of UnsupportedOpcode field by field, PC as a number. -/
theorem State.raiseUnsupportedOpcode_eq (s : State) : s.raiseUnsupportedOpcode = { s with
    pc := BitVec.ofNat 16 (s.pc.toNat + 1), remaining := s.remaining - 1, mode := .faulted, inCall := false,
    fault := some (.unsupportedOpcode (s.memRead s.pc) s.pc) } := by
  have hpc : s.pc + 1#16 = BitVec.ofNat 16 (s.pc.toNat + 1) := by simp [BitVec.ofNat_add]
  rw [← hpc]
  rfl

/-- The decoder is given as many bytes as the longest instruction has, so it rejects only an illegal opcode. -/
theorem decodeOpcode_of_decode_error {s : State} {e : DecodeError} (h : decode s.fetchBytes = .error e) :
    decodeOpcode (s.memRead s.pc) = none := by
  rw [← formReadFromOpcodeAlone _ (s.memRead (s.pc + 1#16)) (s.memRead (s.pc + 2#16)), Option.map_eq_none_iff,
    Option.eq_none_iff_forall_ne_some]
  intro i hi
  obtain ⟨rest, hok⟩ := decode_fetchBytes_of_some hi
  cases h.symm.trans hok

/-- No instruction takes UnsupportedOpcode: one that completes keeps the record, one that faults keeps an
AddressOverflow. -/
theorem exec_fault_ne_unsupportedOpcode {i : Instr} {s t : State} (hs : s.fault = none) (h : exec i s = .next t)
    (op : Byte) (a : Addr) : t.fault ≠ some (.unsupportedOpcode op a) := by
  obtain hcompletes | ⟨mode, base, index, rfl⟩ := completes_or_overflows h
  · simp [hcompletes.fault, hs]
  · simp [State.raiseAddressOverflow, State.raise]

/-- Settles O45: on an illegal opcode the pass through the loop is the entry of UnsupportedOpcode; on a legal one the
decoder accepts, and the step is an instruction. -/
theorem illegalOpcodeFaults : Obligations.IllegalOpcodeFaults := by
  intro s hm hc hr hf op
  constructor
  · intro hillegal
    rw [stepMatchesPseudocode s hm hc, loopBody_of_illegal hr hillegal, State.raiseUnsupportedOpcode_eq]
    rfl
  · intro hlegal t h
    cases step_result h with
    | callEnded _ _ hspent => exact absurd hspent (Int.not_le.mpr hr)
    | instruction i rest _ _ _ _ hexec => exact exec_fault_ne_unsupportedOpcode hf hexec
    | unsupportedOpcode e _ _ _ hd => exact absurd (decodeOpcode_of_decode_error hd) hlegal
    | outsideCall hout => simp [hm, hc] at hout

/-! ### The end of a call at a fault (R204) -/

theorem step_of_faulted {s : State} {r : FaultRecord} (hm : s.mode = .faulted) (hf : s.fault = some r) :
    step s = .fault (.engineFault r) := by
  simp [step, hm, hf]

theorem State.result_of_faulted {s : State} {r : FaultRecord} (hm : s.mode = .faulted) (hf : s.fault = some r) :
    s.result = some (.err r) := by
  simp [State.result, hm, hf]

/-- Settles O46. -/
theorem faultEndsTheCall : Obligations.FaultEndsTheCall :=
  fun _ _ hm hf => ⟨step_of_faulted hm hf, State.result_of_faulted hm hf⟩

end Sys2Proof.Machine

/-! ## Reset and the host between calls (70_reset_and_hazards) -/

namespace Sys2Proof.Machine

/-! ### When the host acts (R227) -/

theorem hostAct_of_not_callInProgress {s : State} (h : s.callInProgress = false) (act : HostAction) :
    hostAct act s = .next (s.applyHost act) := if_neg (by simp [h])

/-- The one next state a host action can answer. -/
theorem applyHost_of_hostAct {act : HostAction} {s t : State} (h : hostAct act s = .next t) :
    s.applyHost act = t := by
  cases hc : s.callInProgress with
  | true => cases (hostAct_of_callInProgress hc act).symm.trans h
  | false =>
    cases (hostAct_of_not_callInProgress hc act).symm.trans h
    rfl

/-- Settles O39, by the two cases of a call in progress. -/
theorem hostActsOnlyBetweenCalls : Obligations.HostActsOnlyBetweenCalls :=
  fun act _ => ⟨fun h => hostAct_of_callInProgress h act, fun h => ⟨_, hostAct_of_not_callInProgress h act⟩⟩

/-! ### The two resets (R220) -/

/-- Settles O38: a CPU reset leaves the register values of `State.reset`, a memory reset the empty memory. -/
theorem resetsBetweenCalls : Obligations.ResetsBetweenCalls := by
  intro s h
  obtain ⟨hpc, hsp, ha, hx, hy, hflags, -⟩ := resetValues
  exact ⟨⟨s.cpuReset, hostAct_of_not_callInProgress h .cpuReset, hpc, hsp, ha, hx, hy, hflags, rfl⟩,
    s.memoryReset, hostAct_of_not_callInProgress h .memoryReset, Memory.read_nil, rfl⟩

/-! ### The invariants (10_state R34, R35) -/

/-- The engine control of 10_state R35, and the field that says a call is in progress, are the same in `s` and `t`;
registers and memory may differ. -/
structure State.SameEngineControl (s t : State) : Prop where
  mode : t.mode = s.mode
  inCall : t.inCall = s.inCall
  requested : t.requested = s.requested
  remaining : t.remaining = s.remaining
  fault : t.fault = s.fault

theorem State.SameEngineControl.inv {s t : State} (h : s.SameEngineControl t) (hs : s.Inv)
    (hmem : Memory.wf t.mem = true) : t.Inv where
  memory := hmem
  boundary := by rw [h.mode]; exact hs.boundary
  record := by rw [h.mode, h.fault]; exact hs.record
  call := by rw [h.mode, h.inCall]; exact hs.call

theorem State.SameEngineControl.budgetInv {s t : State} (h : s.SameEngineControl t) (hs : s.BudgetInv) :
    t.BudgetInv where
  unrun := by rw [h.mode, h.requested, h.remaining]; exact hs.unrun
  overrun := by rw [h.mode, h.requested, h.remaining]; exact hs.overrun
  spent := by rw [h.mode, h.remaining]; exact hs.spent

theorem State.cpuReset_sameEngineControl (s : State) : State.reset.SameEngineControl s.cpuReset :=
  ⟨rfl, rfl, rfl, rfl, rfl⟩

/-- Only a CPU reset and a new call touch the engine control. -/
theorem applyHost_engineControl (act : HostAction) (s : State) :
    act = .cpuReset ∨ (∃ n, act = .execute n) ∨ s.SameEngineControl (s.applyHost act) := by
  cases act with
  | cpuReset => exact .inl rfl
  | execute n => exact .inr (.inl ⟨n, rfl⟩)
  | _ => exact .inr (.inr ⟨rfl, rfl, rfl, rfl, rfl⟩)

theorem applyHost_keeps_memory_wf (act : HostAction) {s : State} (hs : Memory.wf s.mem = true) :
    Memory.wf (s.applyHost act).mem = true := by
  cases act with
  | memoryReset => exact Memory.wf_nil
  | writeByte a v => exact Memory.wf_write hs a v
  | _ => exact hs

theorem State.startCall_inv {s : State} (hs : Memory.wf s.mem = true) (n : Int) : (s.startCall n).Inv where
  memory := hs
  boundary := nofun
  record := by simp
  call _ := rfl

/-- Settles O51: a CPU reset leaves the engine control of `State.reset`, which meets both invariants; a new call is at
its first boundary with its whole budget; every other action keeps the engine control. -/
theorem hostKeepsInvariants : Obligations.HostKeepsInvariants := by
  intro act s t hs hbudget h
  cases applyHost_of_hostAct h
  have hmem := applyHost_keeps_memory_wf act hs.memory
  obtain rfl | ⟨n, rfl⟩ | hkept := applyHost_engineControl act s
  · obtain ⟨hinv, hbudgetReset⟩ := resetHasInvariants
    exact ⟨s.cpuReset_sameEngineControl.inv hinv hmem, s.cpuReset_sameEngineControl.budgetInv hbudgetReset⟩
  · exact ⟨State.startCall_inv hmem n, s.startCall_budgetInv n⟩
  · exact ⟨hkept.inv hs hmem, hkept.budgetInv hbudget⟩

end Sys2Proof.Machine
